-- ==== Sys2Proof/Word.lean ====
section
/-! DEFINITION. The bit-vector types of the WKAU: limb-memory words and 32-bit registers. -/

namespace Sys2Proof

/-- The container of a limb-memory word, of RES and of a random draw (00_scope.md R6). The unit's width
`W` is 32 or 64; the container has the wider of the two, and the low `W` bits are the word. -/
abbrev Word := BitVec 64

/-- A 32-bit register of the register port, or a command word (10_state.md R31, R44). -/
abbrev Reg := BitVec 32

end Sys2Proof
end

