-- ==== Sys2Proof/Config.lean ====
section
/-! DEFINITION. What a WKAU fixes when it is built (`W`, `LM_WORDS`) and the values the spec leaves free. -/

namespace Sys2Proof

/-- The admitted values of the parameter `W` (00_scope.md R6). -/
inductive Width where
  | w32
  | w64
deriving DecidableEq, Repr

/-- The model parameters of 00_scope.md R6 and R7; no step changes them. -/
structure Params where
  width : Width
  lmWords : Nat
deriving DecidableEq, Repr

/-- 00_scope.md R7: `1 <= LM_WORDS <= 2^24`. -/
def Params.Admitted (p : Params) : Prop := 1 ≤ p.lmWords ∧ p.lmWords ≤ 2 ^ 24

/-- The number of bits of a word (00_scope.md R6). -/
def Width.bits : Width → Nat
  | .w32 => 32
  | .w64 => 64

/-- The parameters of the unit that `State.reset` describes. DESIGN CHOICE (log 1): the spec leaves both
open; every statement ranges over all of them. -/
def Config.resetParams : Params := { width := .w32, lmWords := 2 ^ 24 }

/-- Free values (log 3): the word that limb-memory address `a` holds after the power-on reset numbered
`epoch`, until it is written (70_reset_and_hazards.md R380, 93_implementation_defined.md S2). -/
opaque Config.powerOnWord (epoch a : Nat) : Word

/-- Free values (log 4): the `i`-th word that `Havoc` hands out (00_scope.md R17). -/
opaque Config.freeWord (i : Nat) : Word

end Sys2Proof
end

