-- ==== Sys2Proof/Syntax.lean ====
section
/-! DEFINITION. The commands of the WKAU: one constructor per row of the opcode map (30_encoding.md R105). -/

namespace Sys2Proof

/-- A command. Operands are values of the argument registers, not fields of the command word
(30_encoding.md R103), so the only field is the context slot `k` of a "slot k" command. -/
inductive Instr where
  /-- EQ, OPC 0x01: 41_compare.md R140. -/
  | eq
  /-- NE, OPC 0x02: 41_compare.md R141. -/
  | ne
  /-- GT, OPC 0x03: 41_compare.md R142. -/
  | gt
  /-- LT, OPC 0x04: 41_compare.md R143. -/
  | lt
  /-- GE, OPC 0x05: 41_compare.md R144. -/
  | ge
  /-- LE, OPC 0x06: 41_compare.md R145. -/
  | le
  /-- EQX, OPC 0x09: 41_compare.md R146. -/
  | eqx
  /-- NEX, OPC 0x0A: 41_compare.md R147. -/
  | nex
  /-- GTX, OPC 0x0B: 41_compare.md R148. -/
  | gtx
  /-- LTX, OPC 0x0C: 41_compare.md R149. -/
  | ltx
  /-- GEX, OPC 0x0D: 41_compare.md R150. -/
  | gex
  /-- LEX, OPC 0x0E: 41_compare.md R151. -/
  | lex
  /-- AND, OPC 0x20: 42_bitwise.md R160. -/
  | and
  /-- OR, OPC 0x21: 42_bitwise.md R161. -/
  | or
  /-- XOR, OPC 0x22: 42_bitwise.md R162. -/
  | xor
  /-- NOT, OPC 0x23: 42_bitwise.md R163. -/
  | not
  /-- TSTMSB, OPC 0x24: 42_bitwise.md R164. -/
  | tstmsb
  /-- TSTLSB, OPC 0x25: 42_bitwise.md R165. -/
  | tstlsb
  /-- SETMSB, OPC 0x26: 42_bitwise.md R166. -/
  | setmsb
  /-- SETLSB, OPC 0x27: 42_bitwise.md R167. -/
  | setlsb
  /-- CLRMSB, OPC 0x28: 42_bitwise.md R168. -/
  | clrmsb
  /-- CLRLSB, OPC 0x29: 42_bitwise.md R169. -/
  | clrlsb
  /-- CLZ, OPC 0x2A: 42_bitwise.md R170. -/
  | clz
  /-- CTZ, OPC 0x2B: 42_bitwise.md R171. -/
  | ctz
  /-- LSHIFT, OPC 0x2C: 42_bitwise.md R172. -/
  | lshift
  /-- RSHIFT, OPC 0x2D: 42_bitwise.md R173. -/
  | rshift
  /-- ADD, OPC 0x40: 43_arith.md R190. -/
  | add
  /-- SUB, OPC 0x41: 43_arith.md R191. -/
  | sub
  /-- ADDX, OPC 0x42: 43_arith.md R192. -/
  | addx
  /-- SUBX, OPC 0x43: 43_arith.md R193. -/
  | subx
  /-- SETMUL, OPC 0x44: 43_arith.md R194. -/
  | setmul
  /-- ADDMUL, OPC 0x45: 43_arith.md R195. -/
  | addmul
  /-- MUL, OPC 0x46: 43_arith.md R196. -/
  | mul
  /-- SQR, OPC 0x47: 43_arith.md R197. -/
  | sqr
  /-- DBL, OPC 0x48: 43_arith.md R198. -/
  | dbl
  /-- HALVE, OPC 0x49: 43_arith.md R199. -/
  | halve
  /-- NEG, OPC 0x4A: 43_arith.md R200. -/
  | neg
  /-- MODW, OPC 0x60: 44_divide.md R220. -/
  | modw
  /-- DIVMOD, OPC 0x61: 44_divide.md R221. -/
  | divmod
  /-- GCD, OPC 0x62: 44_divide.md R222. -/
  | gcd
  /-- ZERO, OPC 0x70: 45_data.md R240. -/
  | zero
  /-- COPY, OPC 0x71: 45_data.md R241. -/
  | copy
  /-- SETMOD, OPC 0x80: 46_barrett.md R250. -/
  | setmod (k : Fin 4)
  /-- CTXCLR, OPC 0x81: 46_barrett.md R255. -/
  | ctxclr (k : Fin 4)
  /-- REDUCE, OPC 0x82: 46_barrett.md R256. -/
  | reduce (k : Fin 4)
  /-- ADDMOD, OPC 0x83: 46_barrett.md R258. -/
  | addmod (k : Fin 4)
  /-- SUBMOD, OPC 0x84: 46_barrett.md R259. -/
  | submod (k : Fin 4)
  /-- MULMOD, OPC 0x85: 46_barrett.md R260. -/
  | mulmod (k : Fin 4)
  /-- SQRMOD, OPC 0x86: 46_barrett.md R261. -/
  | sqrmod (k : Fin 4)
  /-- INVMOD, OPC 0x87: 46_barrett.md R262. -/
  | invmod (k : Fin 4)
  /-- SLIDE, OPC 0x90: 47_powmod.md R294. -/
  | slide (k : Fin 4)
  /-- POWMOD, OPC 0x91: 47_powmod.md R295. -/
  | powmod (k : Fin 4)
  /-- POWSLD, OPC 0x92: 47_powmod.md R296. -/
  | powsld (k : Fin 4)
  /-- POW2, OPC 0x93: 47_powmod.md R297. -/
  | pow2 (k : Fin 4)
  /-- RND, OPC 0xA0: 48_random.md R323. -/
  | rnd (k : Fin 4)
  /-- RNDODD, OPC 0xA1: 48_random.md R324. -/
  | rndodd (k : Fin 4)
  /-- RNDINV, OPC 0xA2: 48_random.md R325. -/
  | rndinv (k : Fin 4)
deriving DecidableEq, Repr

end Sys2Proof
end

