-- ==== Sys2Proof/WellFormed.lean ====
section
/-! DEFINITION. The fields of a command word and when they are those of a command (30_encoding.md R100
to R102). Written from the opcode ranges of R102 and R107, independently of the decoder's map. -/

namespace Sys2Proof

/-- The fields of CMD32 (30_encoding.md R100). -/
structure CmdFields where
  opc : BitVec 8
  ctx : BitVec 2
  reserved : BitVec 22
deriving DecidableEq, Repr

/-- The fields of a command word: `[7:0]` OPC, `[9:8]` CTX, `[31:10]` reserved (30_encoding.md R100). -/
def CmdFields.ofWord (c : Reg) : CmdFields :=
  { opc := c.extractLsb' 0 8, ctx := c.extractLsb' 8 2, reserved := c.extractLsb' 10 22 }

/-- The command word that holds the fields. -/
def CmdFields.toWord (f : CmdFields) : Reg := f.reserved ++ f.ctx ++ f.opc

/-- The OPC values that are listed: the complement of the illegal ranges of 30_encoding.md R102. -/
def CmdFields.listed (f : CmdFields) : Bool :=
  let o := f.opc.toNat
  (0x01 ≤ o && o ≤ 0x06) || (0x09 ≤ o && o ≤ 0x0E) || (0x20 ≤ o && o ≤ 0x2D) || (0x40 ≤ o && o ≤ 0x4A) ||
    (0x60 ≤ o && o ≤ 0x62) || (0x70 ≤ o && o ≤ 0x71) || (0x80 ≤ o && o ≤ 0x87) || (0x90 ≤ o && o ≤ 0x93) ||
    (0xA0 ≤ o && o ≤ 0xA2)

/-- The commands whose CTX field selects a slot are those of OPC 0x80 and above (30_encoding.md R105, R107). -/
def CmdFields.slotCommand (f : CmdFields) : Bool := 0x80 ≤ f.opc.toNat

/-- 30_encoding.md R100: a command without a slot has CTX = 0. -/
def CmdFields.ctxOk (f : CmdFields) : Bool := f.slotCommand || f.ctx == 0

/-- 30_encoding.md R100: the reserved field is 0. -/
def CmdFields.reservedOk (f : CmdFields) : Bool := f.reserved == 0

/-- The fields are those of a command (30_encoding.md R101). -/
def CmdFields.wellFormed (f : CmdFields) : Bool := f.listed && f.reservedOk && f.ctxOk

end Sys2Proof
end

