-- ==== Sys2Proof/Decode.lean ====
section
/-! DEFINITION. Decoding of a command word (30_encoding.md R100 to R106), and the encoder. -/

namespace Sys2Proof

/-- Why a command word is no command (30_encoding.md R101); each ends the command with the error code of
the same name. -/
inductive DecodeError where
  /-- OPC is not listed in 30_encoding.md R105. -/
  | illegalOpcode
  /-- A listed OPC with a nonzero reserved field, or a nonzero CTX field on a command without a slot. -/
  | reservedField
deriving DecidableEq, Repr

/-- What an OPC selects: nothing, one command without a slot, or a slot command still to be given its
slot by the CTX field. -/
inductive Selected where
  | unlisted
  | plain (i : Instr)
  | slotted (i : Fin 4 → Instr)

/-- The opcode map of 30_encoding.md R105. -/
def selectOpc (opc : BitVec 8) : Selected :=
  match opc.toNat with
  | 0x01 => .plain .eq
  | 0x02 => .plain .ne
  | 0x03 => .plain .gt
  | 0x04 => .plain .lt
  | 0x05 => .plain .ge
  | 0x06 => .plain .le
  | 0x09 => .plain .eqx
  | 0x0A => .plain .nex
  | 0x0B => .plain .gtx
  | 0x0C => .plain .ltx
  | 0x0D => .plain .gex
  | 0x0E => .plain .lex
  | 0x20 => .plain .and
  | 0x21 => .plain .or
  | 0x22 => .plain .xor
  | 0x23 => .plain .not
  | 0x24 => .plain .tstmsb
  | 0x25 => .plain .tstlsb
  | 0x26 => .plain .setmsb
  | 0x27 => .plain .setlsb
  | 0x28 => .plain .clrmsb
  | 0x29 => .plain .clrlsb
  | 0x2A => .plain .clz
  | 0x2B => .plain .ctz
  | 0x2C => .plain .lshift
  | 0x2D => .plain .rshift
  | 0x40 => .plain .add
  | 0x41 => .plain .sub
  | 0x42 => .plain .addx
  | 0x43 => .plain .subx
  | 0x44 => .plain .setmul
  | 0x45 => .plain .addmul
  | 0x46 => .plain .mul
  | 0x47 => .plain .sqr
  | 0x48 => .plain .dbl
  | 0x49 => .plain .halve
  | 0x4A => .plain .neg
  | 0x60 => .plain .modw
  | 0x61 => .plain .divmod
  | 0x62 => .plain .gcd
  | 0x70 => .plain .zero
  | 0x71 => .plain .copy
  | 0x80 => .slotted .setmod
  | 0x81 => .slotted .ctxclr
  | 0x82 => .slotted .reduce
  | 0x83 => .slotted .addmod
  | 0x84 => .slotted .submod
  | 0x85 => .slotted .mulmod
  | 0x86 => .slotted .sqrmod
  | 0x87 => .slotted .invmod
  | 0x90 => .slotted .slide
  | 0x91 => .slotted .powmod
  | 0x92 => .slotted .powsld
  | 0x93 => .slotted .pow2
  | 0xA0 => .slotted .rnd
  | 0xA1 => .slotted .rndodd
  | 0xA2 => .slotted .rndinv
  | _ => .unlisted

/-- 30_encoding.md R101: OPC first, then the reserved field and, for a command without a slot, CTX. -/
def decode (c : Reg) : Except DecodeError Instr :=
  let f := CmdFields.ofWord c
  match selectOpc f.opc with
  | .unlisted => .error .illegalOpcode
  | .plain i => if f.reserved = 0 ∧ f.ctx = 0 then .ok i else .error .reservedField
  | .slotted i => if f.reserved = 0 then .ok (i f.ctx.toFin) else .error .reservedField

/-- The OPC of a command (30_encoding.md R105). -/
def Instr.opc : Instr → BitVec 8
  | .eq => 0x01
  | .ne => 0x02
  | .gt => 0x03
  | .lt => 0x04
  | .ge => 0x05
  | .le => 0x06
  | .eqx => 0x09
  | .nex => 0x0A
  | .gtx => 0x0B
  | .ltx => 0x0C
  | .gex => 0x0D
  | .lex => 0x0E
  | .and => 0x20
  | .or => 0x21
  | .xor => 0x22
  | .not => 0x23
  | .tstmsb => 0x24
  | .tstlsb => 0x25
  | .setmsb => 0x26
  | .setlsb => 0x27
  | .clrmsb => 0x28
  | .clrlsb => 0x29
  | .clz => 0x2A
  | .ctz => 0x2B
  | .lshift => 0x2C
  | .rshift => 0x2D
  | .add => 0x40
  | .sub => 0x41
  | .addx => 0x42
  | .subx => 0x43
  | .setmul => 0x44
  | .addmul => 0x45
  | .mul => 0x46
  | .sqr => 0x47
  | .dbl => 0x48
  | .halve => 0x49
  | .neg => 0x4A
  | .modw => 0x60
  | .divmod => 0x61
  | .gcd => 0x62
  | .zero => 0x70
  | .copy => 0x71
  | .setmod _ => 0x80
  | .ctxclr _ => 0x81
  | .reduce _ => 0x82
  | .addmod _ => 0x83
  | .submod _ => 0x84
  | .mulmod _ => 0x85
  | .sqrmod _ => 0x86
  | .invmod _ => 0x87
  | .slide _ => 0x90
  | .powmod _ => 0x91
  | .powsld _ => 0x92
  | .pow2 _ => 0x93
  | .rnd _ => 0xA0
  | .rndodd _ => 0xA1
  | .rndinv _ => 0xA2

/-- The CTX field of a command: its slot, 0 for a command without one (30_encoding.md R100). -/
def Instr.ctxField : Instr → BitVec 2
  | .eq => 0
  | .ne => 0
  | .gt => 0
  | .lt => 0
  | .ge => 0
  | .le => 0
  | .eqx => 0
  | .nex => 0
  | .gtx => 0
  | .ltx => 0
  | .gex => 0
  | .lex => 0
  | .and => 0
  | .or => 0
  | .xor => 0
  | .not => 0
  | .tstmsb => 0
  | .tstlsb => 0
  | .setmsb => 0
  | .setlsb => 0
  | .clrmsb => 0
  | .clrlsb => 0
  | .clz => 0
  | .ctz => 0
  | .lshift => 0
  | .rshift => 0
  | .add => 0
  | .sub => 0
  | .addx => 0
  | .subx => 0
  | .setmul => 0
  | .addmul => 0
  | .mul => 0
  | .sqr => 0
  | .dbl => 0
  | .halve => 0
  | .neg => 0
  | .modw => 0
  | .divmod => 0
  | .gcd => 0
  | .zero => 0
  | .copy => 0
  | .setmod k => BitVec.ofFin k
  | .ctxclr k => BitVec.ofFin k
  | .reduce k => BitVec.ofFin k
  | .addmod k => BitVec.ofFin k
  | .submod k => BitVec.ofFin k
  | .mulmod k => BitVec.ofFin k
  | .sqrmod k => BitVec.ofFin k
  | .invmod k => BitVec.ofFin k
  | .slide k => BitVec.ofFin k
  | .powmod k => BitVec.ofFin k
  | .powsld k => BitVec.ofFin k
  | .pow2 k => BitVec.ofFin k
  | .rnd k => BitVec.ofFin k
  | .rndodd k => BitVec.ofFin k
  | .rndinv k => BitVec.ofFin k

/-- The fields of a command's one word (30_encoding.md R106). -/
def Instr.fields (i : Instr) : CmdFields := { opc := i.opc, ctx := i.ctxField, reserved := 0 }

/-- The command word of a command (30_encoding.md R106). -/
def encode (i : Instr) : Reg := i.fields.toWord

/-- The command whose word is `w`, for a table row of `nbits` bits. Every command is one CMD32 word
(30_encoding.md R100), written whole to CMD, so there is no byte order to lay out. -/
def decodeTableWord (nbits w : Nat) : Option Instr :=
  if nbits ≤ 32 then
    match decode (BitVec.ofNat 32 (w % 2 ^ nbits)) with
    | .ok i => some i
    | .error _ => none
  else none

end Sys2Proof
end

