-- ==== Sys2Proof/Machine/State.lean ====
section
/-! DEFINITION. The state of the WKAU, what can stop a step, and the state after power-on reset. -/

namespace Sys2Proof.Machine

/-- The error codes a command can end with (60_exceptions.md R341), in the order of their numbers. -/
inductive ErrorCode where
  | noError
  | illegalOpcode
  | reservedField
  | ctxInvalid
  | badLength
  | outOfRange
  | overlap
  | ctxClobber
  | divByZero
  | notNormalized
  | badModulus
  | evenModulus
  | rangeEmpty
deriving DecidableEq, Repr

/-- The argument registers ARG0 to ARG7 (10_state.md R32). -/
structure ArgFile where
  a0 : Reg
  a1 : Reg
  a2 : Reg
  a3 : Reg
  a4 : Reg
  a5 : Reg
  a6 : Reg
  a7 : Reg
deriving DecidableEq, Repr

/-- One Barrett context slot (10_state.md R50). -/
structure Slot where
  base : Reg
  n : Reg
  valid : Bool
deriving DecidableEq, Repr

/-- The four context slots (10_state.md R50). -/
structure CtxFile where
  c0 : Slot
  c1 : Slot
  c2 : Slot
  c3 : Slot
deriving DecidableEq, Repr

/-- What the unit latches when a command is accepted (10_state.md R55), and the attempts a sampling
command has made since (10_state.md R56). -/
structure Pending where
  cmd : Reg
  args : ArgFile
  attempts : Nat
deriving DecidableEq, Repr

/-- A host access to the LM port: one whole word at a word address (20_memory.md R70). -/
inductive LmAccess where
  | read (a : Nat)
  | write (a : Nat) (v : Word)
deriving DecidableEq, Repr

/-- A host access (10_state.md R31, R53). A register access carries its offset and its width in bits, so
that the accesses 20_memory.md R71 forbids can be written down. -/
inductive HostAccess where
  | regRead (off bits : Nat)
  | regWrite (off bits : Nat) (v : Reg)
  | lm (x : LmAccess)
deriving DecidableEq, Repr

/-- What happens next (20_memory.md R85, log 7): a host access, a step of the unit, a word the random
source delivers, or the platform's power-on reset. -/
inductive Turn where
  | host (x : HostAccess)
  | unit
  | random (w : Word)
  | powerOn
deriving DecidableEq, Repr

/-- A value a host read has returned (log 15). -/
inductive Reply where
  | reg (off : Nat) (v : Reg)
  | lm (a : Nat) (v : Word)
deriving DecidableEq, Repr

/-- A cell of the limb memory: a word address and its word. The word is the smallest unit any access
reaches (20_memory.md R74), so memory is kept in words, not bytes (log 2). -/
abbrev LmCell := Nat × Word

/-- The state of the unit with the agents around it. The last six fields are the model's own: inputs still
to come, outputs already given, and the counters of the free values. -/
structure State where
  /-- `W` and `LM_WORDS`, constant, read through ID and LMSIZE (10_state.md R40, R41). -/
  params : Params
  /-- CTRL.IE (10_state.md R42). -/
  ie : Bool
  /-- STATUS.DONE (10_state.md R43). -/
  done : Bool
  /-- STATUS.ERR (10_state.md R43). -/
  err : Bool
  /-- STATUS.OVR (10_state.md R43). -/
  ovr : Bool
  /-- STATUS.ERRCODE (10_state.md R43, 60_exceptions.md R341). -/
  errCode : ErrorCode
  /-- The last accepted command word, which a read of CMD returns (10_state.md R44). -/
  cmd : Reg
  /-- RES, in the low `W` bits (10_state.md R33). -/
  res : Word
  /-- ARG0 to ARG7 (10_state.md R32). -/
  args : ArgFile
  /-- The context slots (10_state.md R50). -/
  ctx : CtxFile
  /-- The limb memory: the words written since power-on, by rising address (10_state.md R53). -/
  lm : List LmCell
  /-- The pending command, if any; STATUS.BUSY is whether there is one (10_state.md R43, R55). -/
  pending : Option Pending
  /-- LM accesses held while BUSY, oldest first (20_memory.md R83). -/
  held : List LmAccess
  /-- Words the random source has ready, the next first (20_memory.md R90, log 5). -/
  rng : List Word
  /-- What happens next, the soonest first (log 7). -/
  turns : List Turn
  /-- What host reads have returned, the oldest first (log 15). -/
  replies : List Reply
  /-- How many free words `Havoc` has handed out (log 4). -/
  free : Nat
  /-- How many power-on resets there have been since the first (log 17). -/
  epoch : Nat
deriving DecidableEq, Repr

/-- What stops the machine: nothing. Every error of a command is a completion with an error code
(60_exceptions.md R340, R347), so no step faults and there is no constructor. -/
inductive Fault where
deriving DecidableEq, Repr

/-- What the model gives no meaning. -/
inductive Refusal where
  /-- Raised by `exec` for a command with no meaning yet. Safe. -/
  | notModelled (mnemonic : String)
  /-- Raised by a host register access whose width is not 32 bits or whose offset is no multiple of 4: "a
  host protocol violation whose effect this spec does not fix; a model refuses it" (20_memory.md R71,
  93_implementation_defined.md S7, log 10). Safe. -/
  | registerProtocol (off bits : Nat)
deriving DecidableEq, Repr

/-- Every argument register 0 (70_reset_and_hazards.md R380). -/
def ArgFile.zero : ArgFile := { a0 := 0, a1 := 0, a2 := 0, a3 := 0, a4 := 0, a5 := 0, a6 := 0, a7 := 0 }

/-- An empty slot (70_reset_and_hazards.md R380). -/
def Slot.empty : Slot := { base := 0, n := 0, valid := false }

/-- Every slot empty (70_reset_and_hazards.md R380). -/
def CtxFile.empty : CtxFile := { c0 := .empty, c1 := .empty, c2 := .empty, c3 := .empty }

/-- The state after the first power-on reset of a unit with parameters `p` (70_reset_and_hazards.md R380). -/
def State.resetWith (p : Params) : State :=
  { params := p, ie := false, done := false, err := false, ovr := false, errCode := .noError, cmd := 0, res := 0,
    args := .zero, ctx := .empty, lm := [], pending := none, held := [], rng := [], turns := [], replies := [],
    free := 0, epoch := 0 }

/-- The machine right after reset (70_reset_and_hazards.md R380), for the parameters of log 1. -/
def State.reset : State := .resetWith Config.resetParams

end Sys2Proof.Machine
end

