-- ==== Sys2Proof/Machine/Ops.lean ====
section
/-! DEFINITION. The named operations over the limb memory, the registers and the context slots; the
acceptance and the completion of a command, which is also how an error is reported; and acknowledging. -/

namespace Sys2Proof.Machine

/-- The outcome of a step. -/
abbrev Out := Host.Outcome State Fault Refusal

/-- `W` (00_scope.md R6). -/
def State.wordBits (s : State) : Nat := s.params.width.bits

/-- The radix `B = 2^W` (00_scope.md R6). -/
def State.radix (s : State) : Nat := 2 ^ s.wordBits

/-- The word written at address `a` since power-on, if any. -/
def Memory.find : List LmCell → Nat → Option Word
  | [], _ => none
  | (b, w) :: m, a => if a = b then some w else Memory.find m a

/-- Write word `w` at address `a`, keeping addresses rising. -/
def Memory.write : List LmCell → Nat → Word → List LmCell
  | [], a, w => [(a, w)]
  | (b, v) :: m, a, w =>
    if a = b then (a, w) :: m else if a < b then (a, w) :: (b, v) :: m else (b, v) :: Memory.write m a w

/-- The canonical form of the limb memory: strictly rising addresses below `size`, words below `B`. -/
def Memory.wf (B size : Nat) (m : List LmCell) : Bool :=
  decide (m.Pairwise (fun c d => c.1 < d.1)) && m.all (fun c => decide (c.1 < size) && decide (c.2.toNat < B))

/-- `Store` (00_scope.md R13): the word at the highest address is the least significant. -/
def Memory.store (B : Nat) (m : List LmCell) (a : Nat) : Nat → Nat → List LmCell
  | 0, _ => m
  | n + 1, v => Memory.write (Memory.store B m a n (v / B)) (a + n) (BitVec.ofNat 64 (v % B))

/-- `Havoc` (00_scope.md R17): word `a + i` receives free word number `free + i`. -/
def Memory.havoc (B : Nat) (m : List LmCell) (a free : Nat) : Nat → List LmCell
  | 0 => m
  | n + 1 =>
    Memory.write (Memory.havoc B m a free n) (a + n) (BitVec.ofNat 64 ((Config.freeWord (free + n)).toNat % B))

/-- `LM[a]` as an integer below `B` (00_scope.md R11). A word nothing has written since power-on is free
(70_reset_and_hazards.md R380, log 3). -/
def State.word (s : State) (a : Nat) : Nat :=
  ((Memory.find s.lm a).getD (Config.powerOnWord s.epoch a)).toNat % s.radix

/-- `Val(a, n)` (00_scope.md R12): most significant word first. -/
def State.val (s : State) (a : Nat) : Nat → Nat
  | 0 => 0
  | n + 1 => State.val s a n * s.radix + s.word (a + n)

/-- `Store(a, n, v)` (00_scope.md R13). -/
def State.store (s : State) (a n v : Nat) : State := { s with lm := Memory.store s.radix s.lm a n v }

/-- `Havoc(a, n)` (00_scope.md R17). -/
def State.havoc (s : State) (a n : Nat) : State :=
  { s with lm := Memory.havoc s.radix s.lm a s.free n, free := s.free + n }

/-- Entries 0 to `k - 1` of a table of `n`-word entries at `a` (47_powmod.md R291). -/
def State.storeTable (s : State) (a n : Nat) (tab : Nat → Nat) : Nat → State
  | 0 => s
  | k + 1 => (State.storeTable s a n tab k).store (a + k * n) n (tab k)

/-- `RES <- v` (10_state.md R33): the low `W` bits. -/
def State.setRes (s : State) (v : Nat) : State := { s with res := BitVec.ofNat 64 (v % s.radix) }

/-- RES as an integer below `B` (10_state.md R33). -/
def State.resVal (s : State) : Nat := s.res.toNat % s.radix

/-- Argument register `i` of a file (10_state.md R32). -/
def ArgFile.get (f : ArgFile) : Fin 8 → Reg
  | 0 => f.a0
  | 1 => f.a1
  | 2 => f.a2
  | 3 => f.a3
  | 4 => f.a4
  | 5 => f.a5
  | 6 => f.a6
  | 7 => f.a7

/-- Write argument register `i` of a file (10_state.md R32). -/
def ArgFile.set (f : ArgFile) (v : Reg) : Fin 8 → ArgFile
  | 0 => { f with a0 := v }
  | 1 => { f with a1 := v }
  | 2 => { f with a2 := v }
  | 3 => { f with a3 := v }
  | 4 => { f with a4 := v }
  | 5 => { f with a5 := v }
  | 6 => { f with a6 := v }
  | 7 => { f with a7 := v }

/-- The argument values the unit computes from: the latched copies (10_state.md R55). With no command
pending, which no step gives a meaning, the registers themselves (log 11). -/
def State.latchedArgs (s : State) : ArgFile :=
  match s.pending with
  | some p => p.args
  | none => s.args

/-- `ARG[i]` of the pending command, an unsigned integer (30_encoding.md R103). -/
def State.arg (s : State) (i : Fin 8) : Nat := (s.latchedArgs.get i).toNat

/-- Slot `k` of a file (10_state.md R50). -/
def CtxFile.get (f : CtxFile) : Fin 4 → Slot
  | 0 => f.c0
  | 1 => f.c1
  | 2 => f.c2
  | 3 => f.c3

/-- Write slot `k` of a file (10_state.md R50). -/
def CtxFile.set (f : CtxFile) (v : Slot) : Fin 4 → CtxFile
  | 0 => { f with c0 := v }
  | 1 => { f with c1 := v }
  | 2 => { f with c2 := v }
  | 3 => { f with c3 := v }

/-- `CTX[k]` (10_state.md R50). -/
def State.slot (s : State) (k : Fin 4) : Slot := s.ctx.get k

/-- `CTX[k] <- v` (10_state.md R50). -/
def State.setSlot (s : State) (k : Fin 4) (v : Slot) : State := { s with ctx := s.ctx.set v k }

/-- `CTX[k].N` as an integer (30_encoding.md R104). -/
def State.slotN (s : State) (k : Fin 4) : Nat := (s.slot k).n.toNat

/-- `CTX[k].BASE` as an integer. -/
def State.slotBase (s : State) (k : Fin 4) : Nat := (s.slot k).base.toNat

/-- `m_k = Val(CTX[k].BASE, CTX[k].N)` (10_state.md R51). -/
def State.modulus (s : State) (k : Fin 4) : Nat := s.val (s.slotBase k) (s.slotN k)

/-- `mu_k = Val(CTX[k].BASE + CTX[k].N, CTX[k].N + 1)` (10_state.md R51). -/
def State.coefficient (s : State) (k : Fin 4) : Nat := s.val (s.slotBase k + s.slotN k) (s.slotN k + 1)

/-- Whether address `a` lies in the context region of a slot, `2N+1` words from BASE (10_state.md R51). -/
def Slot.covers (c : Slot) (a : Nat) : Bool :=
  decide (c.base.toNat ≤ a) && decide (a < c.base.toNat + (2 * c.n.toNat + 1))

/-- What a host write to address `a` does to a slot: a valid slot whose region holds `a` loses VALID, BASE
and N are kept (20_memory.md R82). -/
def Slot.touched (c : Slot) (a : Nat) : Slot := { c with valid := c.valid && !c.covers a }

/-- `Slot.touched` for all four slots (20_memory.md R82). -/
def CtxFile.touched (f : CtxFile) (a : Nat) : CtxFile :=
  { c0 := f.c0.touched a, c1 := f.c1.touched a, c2 := f.c2.touched a, c3 := f.c3.touched a }

/-- The word a host read of LM address `a` returns (20_memory.md R70). -/
def State.lmRead (s : State) (a : Nat) : Nat := if a < s.params.lmWords then s.word a else 0

/-- A host write to LM address `a` (20_memory.md R70, R82). -/
def State.lmWrite (s : State) (a : Nat) (v : Word) : State :=
  if a < s.params.lmWords then
    { s with lm := Memory.write s.lm a (BitVec.ofNat 64 (v.toNat % s.radix)), ctx := s.ctx.touched a }
  else s

/-- An LM access takes effect; a read answers the host (20_memory.md R70). -/
def State.lmPerform (s : State) : LmAccess → State
  | .read a => { s with replies := s.replies ++ [.lm a (BitVec.ofNat 64 (s.lmRead a))] }
  | .write a v => s.lmWrite a v

/-- Every held LM access takes effect, the oldest first (20_memory.md R83). -/
def State.lmPerformAll : State → List LmAccess → State
  | s, [] => s
  | s, x :: xs => State.lmPerformAll (s.lmPerform x) xs

/-- STATUS.BUSY (10_state.md R43, R44; log 12). -/
def State.busy (s : State) : Bool := s.pending.isSome

/-- The interrupt output (10_state.md R57, 60_exceptions.md R350). -/
def State.irq (s : State) : Bool := s.done && s.ie

/-- The number of an error code (60_exceptions.md R341). -/
def ErrorCode.code : ErrorCode → BitVec 8
  | .noError => 0x00
  | .illegalOpcode => 0x01
  | .reservedField => 0x02
  | .ctxInvalid => 0x03
  | .badLength => 0x04
  | .outOfRange => 0x05
  | .overlap => 0x06
  | .ctxClobber => 0x07
  | .divByZero => 0x08
  | .notNormalized => 0x09
  | .badModulus => 0x0A
  | .evenModulus => 0x0B
  | .rangeEmpty => 0x0C

/-- The error code of a command word that is no command (30_encoding.md R101). -/
def ErrorCode.ofDecode : DecodeError → ErrorCode
  | .illegalOpcode => .illegalOpcode
  | .reservedField => .reservedField

/-- Acceptance of command word `c` (10_state.md R44, R55). -/
def State.accept (s : State) (c : Reg) : State :=
  { s with cmd := c, pending := some { cmd := c, args := s.args, attempts := 0 }, done := false, err := false,
           errCode := .noError }

/-- The pending command ends with code `e` (60_exceptions.md R343). With a code other than NONE this is the
whole effect of the command, which is how the unit takes an error (R342, R344, R347). -/
def State.complete (s : State) (e : ErrorCode) : State :=
  { s with pending := none, done := true, err := s.err || decide (e ≠ .noError), errCode := e }

/-- A host write of `v` to STATUS: bits 1, 2 and 3 are write-one-to-clear, every other bit is ignored
(10_state.md R43). Writing 6 acknowledges a completion (60_exceptions.md R348). ERRCODE is kept, as R43 and R348
word it; the STATUS of 0 that three rows of P4 and P5 in 95_test_vectors.md give after it is not followed (DESIGN
CHOICE, unsafe, log 22). -/
def State.writeStatus (s : State) (v : Reg) : State :=
  { s with done := s.done && !v.getLsbD 1, err := s.err && !v.getLsbD 2, ovr := s.ovr && !v.getLsbD 3 }

/-- The power-on reset (70_reset_and_hazards.md R380, R381): every register as R380 says, no command
pending, no access held, and the limb memory drawn afresh. The agents around the unit go on (log 17). -/
def State.powerOn (s : State) : State :=
  { State.resetWith s.params with
    rng := s.rng, turns := s.turns, replies := s.replies, free := s.free, epoch := s.epoch + 1 }

end Sys2Proof.Machine
end

