-- ==== Sys2Proof/Machine/Flags.lean ====
section
/-! DEFINITION. The scalar results that go to RES in place of flags (10_state.md R33, R34): outcomes,
carries, borrows, bits shifted out and bit counts, on integers of `bits = N*W` bits. -/

namespace Sys2Proof.Machine

/-- An outcome as 1 or 0 (10_state.md R33). -/
def asBit (b : Bool) : Nat := if b then 1 else 0

/-- `bitlen(v)`, 0 for 0 (00_scope.md R14). -/
def bitlen (v : Nat) : Nat := if v = 0 then 0 else v.log2 + 1

/-- The carry of a sum, or the carry word of a product, out of a buffer of modulus `M = B^n`
(43_arith.md R206). -/
def carryOut (M t : Nat) : Nat := t / M

/-- The borrow of `x - y` (43_arith.md R206). -/
def borrowOut (x y : Nat) : Nat := asBit (decide (x < y))

/-- Bit `bits - 1` of `x < 2^bits` (42_bitwise.md R164, 43_arith.md R198). -/
def topBit (bits x : Nat) : Nat := x / 2 ^ (bits - 1) % 2

/-- The count of leading zero bits in a field of `bits` bits (42_bitwise.md R170). -/
def leadingZeros (bits x : Nat) : Nat := bits - bitlen x

/-- The largest `t <= fuel` with `x mod 2^t = 0`. -/
def trailingZeros : Nat → Nat → Nat
  | 0, _ => 0
  | fuel + 1, x => if x % 2 = 1 then 0 else trailingZeros fuel (x / 2) + 1

end Sys2Proof.Machine
end

