-- ==== Sys2Proof/Machine/Number.lean ====
section
/-! DEFINITION. The arithmetic of the commands on unbounded integers (00_scope.md R14): residues of
differences, the modular inverse, and the exponentiation decodes of 47_powmod.md. -/

namespace Sys2Proof.Machine

/-- `(x - y) mod m`, the non-negative remainder (00_scope.md R14). -/
def subMod (m x y : Nat) : Nat := (((x : Int) - (y : Int)) % (m : Int)).toNat

/-- The loop of the extended Euclidean algorithm: `t0` and `t1` are the multipliers of the first operand
behind the remainders `r0` and `r1`. Answers the multiplier behind the last nonzero remainder. -/
def euclid : Nat → Nat → Nat → Int → Int → Int
  | 0, _, _, t0, _ => t0
  | fuel + 1, r0, r1, t0, t1 =>
    if r1 = 0 then t0 else euclid fuel r1 (r0 % r1) t1 (t0 - (r0 / r1 : Nat) * t1)

/-- `inv_m(a)` (00_scope.md R14): the `r` in `[0, m)` with `a*r mod m = 1`, for `gcd(a, m) = 1` and `m > 1`.
The remainders fall at each round, so `a + 2` rounds suffice. -/
def invMod (m a : Nat) : Nat := ((euclid (a + 2) m a 0 1) % (m : Int)).toNat

/-- Bits `k - 1` down to 0 of `p`. -/
def bitsBelow (p : Nat) : Nat → List Bool
  | 0 => []
  | k + 1 => p.testBit k :: bitsBelow p k

/-- The bits of an exponent, most significant first, from its top 1 bit (47_powmod.md R291). -/
def expBits (p : Nat) : List Bool := bitsBelow p (bitlen p)

/-- PRESQ (47_powmod.md R290). -/
def preSq (v : Nat) : Nat := [0, 1, 1, 2, 1, 3, 2, 3, 1, 4, 3, 4, 2, 4, 3, 4].getD v 0

/-- MULG (47_powmod.md R290). -/
def mulG (v : Nat) : Nat := [0, 0, 0, 1, 0, 2, 1, 3, 0, 4, 2, 5, 1, 6, 3, 7].getD v 0

/-- POSTSQ (47_powmod.md R290). -/
def postSq (v : Nat) : Nat := [0, 0, 1, 0, 2, 0, 1, 0, 3, 0, 1, 0, 2, 0, 1, 0].getD v 0

/-- `k` modular squarings of `acc`. -/
def squareTimes (m : Nat) : Nat → Nat → Nat
  | 0, acc => acc
  | k + 1, acc => squareTimes m k (acc * acc % m)

/-- `Apply(v)` (47_powmod.md R292). -/
def applyWindow (m : Nat) (tab : Nat → Nat) (v acc : Nat) : Nat :=
  squareTimes m (postSq v) (squareTimes m (preSq v) acc * tab (mulG v) % m)

/-- The variables of the window decode (47_powmod.md R292). -/
structure Window where
  acc : Nat
  win : Nat
  len : Nat
deriving DecidableEq, Repr

/-- One exponent bit of the window decode (47_powmod.md R292). A window closes at length 4 whatever its
low bit (90_conflicts.md C3). -/
def windowBit (m : Nat) (tab : Nat → Nat) (w : Window) (b : Bool) : Window :=
  let win := 2 * w.win + asBit b
  if win ≠ 0 then
    if w.len + 1 = 4 then { acc := applyWindow m tab win w.acc, win := 0, len := 0 }
    else { acc := w.acc, win := win, len := w.len + 1 }
  else { acc := w.acc * w.acc % m, win := win, len := w.len }

/-- `Decode(Tab, p)` modulo `m` (47_powmod.md R292). -/
def windowDecode (m : Nat) (tab : Nat → Nat) (p : Nat) : Nat :=
  let w := (expBits p).foldl (windowBit m tab) { acc := 1, win := 0, len := 0 }
  if w.win ≠ 0 then applyWindow m tab w.win w.acc else w.acc

/-- One exponent bit of POW2: square and conditionally double (47_powmod.md R297). -/
def pow2Bit (m acc : Nat) (b : Bool) : Nat :=
  let sq := acc * acc % m
  if b then 2 * sq % m else sq

/-- The value POW2 computes (47_powmod.md R297). -/
def pow2Mod (m p : Nat) : Nat := (expBits p).foldl (pow2Bit m) 1

/-- Entry `i` of the slide table of `x` (47_powmod.md R294). -/
def oddPower (m x i : Nat) : Nat := x ^ (2 * i + 1) % m

/-- The mask of the top word of a candidate: `(B - 1) >> clz_W(mtop)` (48_random.md R321). -/
def topMask (W mtop : Nat) : Nat := (2 ^ W - 1) >>> leadingZeros W mtop

/-- The candidate formed from the words of one attempt, the first the most significant and masked
(48_random.md R321). -/
def candidate (B mask : Nat) : List Word → Nat
  | [] => 0
  | w :: ws => ws.foldl (fun c d => c * B + d.toNat % B) ((w.toNat % B) &&& mask)

/-- The acceptance range `2 <= c <= m - 2` (48_random.md R320). -/
def inRange (m c : Nat) : Bool := decide (2 ≤ c) && decide (c + 2 ≤ m)

end Sys2Proof.Machine
end

