-- ==== Sys2Proof/Machine/Operands.lean ====
section
/-! DEFINITION. The operands of the commands: buffers with their roles and lengths, the overlaps each
command permits (30_encoding.md R105), and the checks of 60_exceptions.md R345, steps 3 to 8. -/

namespace Sys2Proof.Machine

/-- The role of a buffer (00_scope.md R15). -/
inductive Role where
  | input
  | inout
  | output
  | work
deriving DecidableEq, Repr

/-- The names of 30_encoding.md R105, by which a command's overlap permissions name its buffers. -/
inductive BufName where
  | X
  | Y
  | YW
  | R
  | RI
  | Q
  | M
  | BASE
  | T
  | P
  | WK
deriving DecidableEq, Repr

/-- A buffer operand: its address and its length in words (00_scope.md R12). -/
structure Buf where
  name : BufName
  role : Role
  addr : Nat
  len : Nat
deriving DecidableEq, Repr

/-- How two buffers of a command may overlap (20_memory.md R80, 46_barrett.md R250). -/
inductive Permit where
  /-- Only when they have the same address and the same length. -/
  | coincide
  /-- In any way. -/
  | overlap
  /-- Only when they start at the same address. -/
  | sameStart
deriving DecidableEq, Repr

/-- A length operand, with the upper bound its command states, if any (30_encoding.md R105). -/
structure LenOperand where
  value : Nat
  bound : Option Nat
deriving DecidableEq, Repr

/-- The operands of one command as its rule lists them, with the outcome of its own value checks. -/
structure Form where
  /-- The slot that must be valid (46_barrett.md R263). -/
  slot : Option (Fin 4)
  /-- The slot whose own region the command may write: SETMOD's (20_memory.md R81). -/
  own : Option (Fin 4)
  lengths : List LenOperand
  bufs : List Buf
  permits : List (BufName × BufName × Permit)
  /-- The first failing value check of the command, `noError` when all pass (60_exceptions.md R345 step 8). -/
  value : ErrorCode
deriving DecidableEq, Repr

/-- Whether the regions `[a, a+n)` and `[c, c+m)` intersect (00_scope.md R15). -/
def regionsMeet (a n c m : Nat) : Bool := decide (max a c < min (a + n) (c + m))

/-- Whether two buffers overlap (00_scope.md R15). -/
def Buf.meets (b c : Buf) : Bool := regionsMeet b.addr b.len c.addr c.len

/-- Whether a permission admits the way two buffers lie (20_memory.md R80). -/
def Permit.admits (p : Permit) (b c : Buf) : Bool :=
  match p with
  | .coincide => decide (b.addr = c.addr) && decide (b.len = c.len)
  | .overlap => true
  | .sameStart => decide (b.addr = c.addr)

/-- Whether the command permits the overlap of `b` and `c`, given in either order. -/
def Form.permitted (f : Form) (b c : Buf) : Bool :=
  f.permits.any fun t =>
    ((decide (t.1 = b.name) && decide (t.2.1 = c.name)) || (decide (t.1 = c.name) && decide (t.2.1 = b.name))) &&
      t.2.2.admits b c

/-- A forbidden overlap (20_memory.md R80): two buffers that meet, not both `in`, and not as permitted. No
command permits any overlap of a workspace. -/
def Form.conflict (f : Form) (b c : Buf) : Bool :=
  b.meets c && !(decide (b.role = .input) && decide (c.role = .input)) && !f.permitted b c

/-- Whether some pair of a list, the earlier first, satisfies `p`. -/
def somePair (p : Buf → Buf → Bool) : List Buf → Bool
  | [] => false
  | b :: bs => bs.any (p b) || somePair p bs

/-- A buffer the command writes: every role but `in` (00_scope.md R15). -/
def Buf.written (b : Buf) : Bool := decide (b.role ≠ .input)

/-- 60_exceptions.md R345 step 4 for one length operand. -/
def LenOperand.ok (l : LenOperand) : Bool :=
  decide (1 ≤ l.value) && (match l.bound with | none => true | some u => decide (l.value ≤ u))

/-- Whether buffer `b` meets the context region of slot `k`, if that slot is valid (10_state.md R51). -/
def State.protects (s : State) (k : Fin 4) (b : Buf) : Bool :=
  (s.slot k).valid && regionsMeet b.addr b.len (s.slotBase k) (2 * s.slotN k + 1)

/-- 20_memory.md R81 for one buffer: it meets the region of a valid slot other than the command's own. -/
def State.clobbers (s : State) (own : Option (Fin 4)) (b : Buf) : Bool :=
  [(0 : Fin 4), 1, 2, 3].any fun k => !decide (own = some k) && s.protects k b

/-- 60_exceptions.md R345 step 3: the command's slot is empty. -/
def Form.slotInvalid (f : Form) (s : State) : Bool :=
  match f.slot with
  | none => false
  | some k => !(s.slot k).valid

/-- 60_exceptions.md R345 steps 3 to 8: the code of the first check that fails, `noError` when none does. -/
def Form.firstError (f : Form) (s : State) : ErrorCode :=
  if f.slotInvalid s then .ctxInvalid
  else if !f.lengths.all LenOperand.ok then .badLength
  else if f.bufs.any (fun b => decide (s.params.lmWords < b.addr + b.len)) then .outOfRange
  else if somePair f.conflict f.bufs then .overlap
  else if f.bufs.any (fun b => b.written && s.clobbers f.own b) then .ctxClobber
  else f.value

/-- A command whose checks pass completes with effect `eff` (which has written its outputs and RES); one
whose checks fail ends with the error code and no other effect (60_exceptions.md R343, R344). -/
def State.command (s : State) (f : Form) (eff : State) : Out :=
  if f.firstError s = .noError then .next (eff.complete .noError) else .next (s.complete (f.firstError s))

/-- A form without slot, value check or permission. -/
def Form.plain (lengths : List LenOperand) (bufs : List Buf) : Form :=
  { slot := none, own := none, lengths := lengths, bufs := bufs, permits := [], value := .noError }

/-- A length operand `1..` (30_encoding.md R105). -/
def lenAny (n : Nat) : LenOperand := { value := n, bound := none }

/-- A length operand `1..u` (30_encoding.md R105). -/
def lenUpTo (n u : Nat) : LenOperand := { value := n, bound := some u }

/-- EQ to LE: ARG0 = X (in, N), ARG1 = Y (in, N), ARG2 = N. -/
def formCompare (s : State) : Form :=
  .plain [lenAny (s.arg 2)] [⟨.X, .input, s.arg 0, s.arg 2⟩, ⟨.Y, .input, s.arg 1, s.arg 2⟩]

/-- EQX to LEX: ARG0 = X (in, XN), ARG1 = XN, ARG2 = Y (in, YN), ARG3 = YN. -/
def formCompareX (s : State) : Form :=
  .plain [lenAny (s.arg 1), lenAny (s.arg 3)] [⟨.X, .input, s.arg 0, s.arg 1⟩, ⟨.Y, .input, s.arg 2, s.arg 3⟩]

/-- AND, OR, XOR, ADD, SUB: ARG0 = X (io, N), ARG1 = Y (in, N), ARG2 = N; Y may coincide with X. -/
def formInPlace (s : State) : Form :=
  { Form.plain [lenAny (s.arg 2)] [⟨.X, .inout, s.arg 0, s.arg 2⟩, ⟨.Y, .input, s.arg 1, s.arg 2⟩] with
    permits := [(.Y, .X, .coincide)] }

/-- NOT, SETMSB, SETLSB, CLRMSB, CLRLSB, LSHIFT, RSHIFT, DBL, HALVE, NEG: ARG0 = X (io, N), ARG1 = N. -/
def formUnary (s : State) : Form := .plain [lenAny (s.arg 1)] [⟨.X, .inout, s.arg 0, s.arg 1⟩]

/-- TSTMSB, TSTLSB, CLZ, CTZ: ARG0 = X (in, N), ARG1 = N. -/
def formTest (s : State) : Form := .plain [lenAny (s.arg 1)] [⟨.X, .input, s.arg 0, s.arg 1⟩]

/-- ADDX, SUBX: ARG0 = X (io, XN), ARG1 = XN, ARG2 = Y (in, YN), ARG3 = YN (1..XN); Y may coincide with X. -/
def formInPlaceX (s : State) : Form :=
  { Form.plain [lenAny (s.arg 1), lenUpTo (s.arg 3) (s.arg 1)]
      [⟨.X, .inout, s.arg 0, s.arg 1⟩, ⟨.Y, .input, s.arg 2, s.arg 3⟩] with
    permits := [(.Y, .X, .coincide)] }

/-- SETMUL (`role` out) and ADDMUL (`role` io): ARG0 = R (N), ARG1 = X (in, N), ARG2 = N, ARG3 = YW (in, 1);
X may coincide with R. -/
def formMulWord (s : State) (role : Role) : Form :=
  { Form.plain [lenAny (s.arg 2)]
      [⟨.R, role, s.arg 0, s.arg 2⟩, ⟨.X, .input, s.arg 1, s.arg 2⟩, ⟨.YW, .input, s.arg 3, 1⟩] with
    permits := [(.X, .R, .coincide)] }

/-- MUL: ARG0 = R (out, XN+YN), ARG1 = X (in, XN), ARG2 = XN, ARG3 = Y (in, YN), ARG4 = YN. -/
def formMul (s : State) : Form :=
  .plain [lenAny (s.arg 2), lenAny (s.arg 4)]
    [⟨.R, .output, s.arg 0, s.arg 2 + s.arg 4⟩, ⟨.X, .input, s.arg 1, s.arg 2⟩, ⟨.Y, .input, s.arg 3, s.arg 4⟩]

/-- SQR: ARG0 = R (out, 2N), ARG1 = X (in, N), ARG2 = N. -/
def formSqr (s : State) : Form :=
  .plain [lenAny (s.arg 2)] [⟨.R, .output, s.arg 0, 2 * s.arg 2⟩, ⟨.X, .input, s.arg 1, s.arg 2⟩]

/-- MODW: ARG0 = X (in, N), ARG1 = N, ARG2 = YW (in, 1), the divisor, which must not be 0. -/
def formModw (s : State) : Form :=
  { Form.plain [lenAny (s.arg 1)] [⟨.X, .input, s.arg 0, s.arg 1⟩, ⟨.YW, .input, s.arg 2, 1⟩] with
    value := if s.word (s.arg 2) = 0 then .divByZero else .noError }

/-- DIVMOD: ARG0 = X (in, XN), ARG1 = XN, ARG2 = Y (in, YN), ARG3 = YN (1..XN), ARG4 = Q (out, XN-YN+1),
ARG5 = R (out, YN), ARG6 = WK (ws, XN+YN+2); the top bit of Y must be 1. -/
def formDivmod (s : State) : Form :=
  { Form.plain [lenAny (s.arg 1), lenUpTo (s.arg 3) (s.arg 1)]
      [⟨.X, .input, s.arg 0, s.arg 1⟩, ⟨.Y, .input, s.arg 2, s.arg 3⟩,
        ⟨.Q, .output, s.arg 4, s.arg 1 - s.arg 3 + 1⟩, ⟨.R, .output, s.arg 5, s.arg 3⟩,
        ⟨.WK, .work, s.arg 6, s.arg 1 + s.arg 3 + 2⟩] with
    value :=
      if s.val (s.arg 2) (s.arg 3) / 2 ^ (s.arg 3 * s.wordBits - 1) = 0 then .notNormalized else .noError }

/-- GCD: ARG0 = R (out, N), ARG1 = X (in, N), ARG2 = Y (in, N), ARG3 = N, ARG4 = WK (ws, 2N); R may overlap
X and Y. -/
def formGcd (s : State) : Form :=
  { Form.plain [lenAny (s.arg 3)]
      [⟨.R, .output, s.arg 0, s.arg 3⟩, ⟨.X, .input, s.arg 1, s.arg 3⟩, ⟨.Y, .input, s.arg 2, s.arg 3⟩,
        ⟨.WK, .work, s.arg 4, 2 * s.arg 3⟩] with
    permits := [(.R, .X, .overlap), (.R, .Y, .overlap)] }

/-- ZERO: ARG0 = X (out, N), ARG1 = N. -/
def formZero (s : State) : Form := .plain [lenAny (s.arg 1)] [⟨.X, .output, s.arg 0, s.arg 1⟩]

/-- COPY: ARG0 = R (out, N), ARG1 = X (in, N), ARG2 = N; X may coincide with R. -/
def formCopy (s : State) : Form :=
  { Form.plain [lenAny (s.arg 2)] [⟨.R, .output, s.arg 0, s.arg 2⟩, ⟨.X, .input, s.arg 1, s.arg 2⟩] with
    permits := [(.X, .R, .coincide)] }

/-- The modulus constraint `B^(N-1) < m < B^N` (46_barrett.md R253). -/
def modulusOk (B n m : Nat) : Bool := decide (B ^ (n - 1) < m) && decide (m < B ^ n)

/-- SETMOD: ARG0 = M (in, N), ARG1 = N, ARG2 = BASE (out, 2N+1), ARG3 = WK (ws, 5N+4); M may overlap the
region only when ARG0 = ARG2; slot `k`'s own region may be written (46_barrett.md R250). -/
def formSetmod (s : State) (k : Fin 4) : Form :=
  { slot := none, own := some k, lengths := [lenAny (s.arg 1)],
    bufs :=
      [⟨.M, .input, s.arg 0, s.arg 1⟩, ⟨.BASE, .output, s.arg 2, 2 * s.arg 1 + 1⟩,
        ⟨.WK, .work, s.arg 3, 5 * s.arg 1 + 4⟩],
    permits := [(.M, .BASE, .sameStart)],
    value := if modulusOk s.radix (s.arg 1) (s.val (s.arg 0) (s.arg 1)) then .noError else .badModulus }

/-- CTXCLR: no operand, no check beyond the command word's (46_barrett.md R255). -/
def formCtxclr : Form := .plain [] []

/-- A form of a slot command (46_barrett.md R263). -/
def Form.slotted (k : Fin 4) (lengths : List LenOperand) (bufs : List Buf)
    (permits : List (BufName × BufName × Permit)) (value : ErrorCode) : Form :=
  { slot := some k, own := none, lengths := lengths, bufs := bufs, permits := permits, value := value }

/-- REDUCE: ARG0 = X (in, XN), ARG1 = XN (1..2N), ARG2 = R (out, N), ARG3 = WK (ws, 2N+2); R may overlap X. -/
def formReduce (s : State) (k : Fin 4) : Form :=
  .slotted k [lenUpTo (s.arg 1) (2 * s.slotN k)]
    [⟨.X, .input, s.arg 0, s.arg 1⟩, ⟨.R, .output, s.arg 2, s.slotN k⟩, ⟨.WK, .work, s.arg 3, 2 * s.slotN k + 2⟩]
    [(.R, .X, .overlap)] .noError

/-- ADDMOD, SUBMOD, MULMOD: ARG0 = X (in, XN), ARG1 = XN (1..N), ARG2 = Y (in, YN), ARG3 = YN (1..N),
ARG4 = R (out, N), ARG5 = WK (ws, 4N+2); R may overlap X and Y. -/
def formModPair (s : State) (k : Fin 4) : Form :=
  .slotted k [lenUpTo (s.arg 1) (s.slotN k), lenUpTo (s.arg 3) (s.slotN k)]
    [⟨.X, .input, s.arg 0, s.arg 1⟩, ⟨.Y, .input, s.arg 2, s.arg 3⟩, ⟨.R, .output, s.arg 4, s.slotN k⟩,
      ⟨.WK, .work, s.arg 5, 4 * s.slotN k + 2⟩]
    [(.R, .X, .overlap), (.R, .Y, .overlap)] .noError

/-- SQRMOD: ARG0 = X (in, XN), ARG1 = XN (1..N), ARG2 = R (out, N), ARG3 = WK (ws, 4N+2); R may overlap X. -/
def formSqrmod (s : State) (k : Fin 4) : Form :=
  .slotted k [lenUpTo (s.arg 1) (s.slotN k)]
    [⟨.X, .input, s.arg 0, s.arg 1⟩, ⟨.R, .output, s.arg 2, s.slotN k⟩, ⟨.WK, .work, s.arg 3, 4 * s.slotN k + 2⟩]
    [(.R, .X, .overlap)] .noError

/-- The parity check of INVMOD and RNDINV (46_barrett.md R262, 48_random.md R325), then `next`. -/
def oddModulus (m : Nat) (next : ErrorCode) : ErrorCode := if m % 2 = 0 then .evenModulus else next

/-- The range check of the sampling commands: the modulus is below `least` (48_random.md R323 to R325). -/
def rangeCheck (m least : Nat) : ErrorCode := if m < least then .rangeEmpty else .noError

/-- INVMOD: ARG0 = X (in, XN), ARG1 = XN (1..N), ARG2 = R (out, N), ARG3 = WK (ws, 6N+6); R may overlap X;
the modulus must be odd. -/
def formInvmod (s : State) (k : Fin 4) : Form :=
  .slotted k [lenUpTo (s.arg 1) (s.slotN k)]
    [⟨.X, .input, s.arg 0, s.arg 1⟩, ⟨.R, .output, s.arg 2, s.slotN k⟩, ⟨.WK, .work, s.arg 3, 6 * s.slotN k + 6⟩]
    [(.R, .X, .overlap)] (oddModulus (s.modulus k) .noError)

/-- SLIDE: ARG0 = X (in, XN), ARG1 = XN (1..N), ARG2 = T (out, 8N), ARG3 = WK (ws, 4N+2). -/
def formSlide (s : State) (k : Fin 4) : Form :=
  .slotted k [lenUpTo (s.arg 1) (s.slotN k)]
    [⟨.X, .input, s.arg 0, s.arg 1⟩, ⟨.T, .output, s.arg 2, 8 * s.slotN k⟩,
      ⟨.WK, .work, s.arg 3, 4 * s.slotN k + 2⟩]
    [] .noError

/-- POWMOD: ARG0 = X (in, XN), ARG1 = XN (1..N), ARG2 = P (in, PN), ARG3 = PN, ARG4 = R (out, N),
ARG5 = WK (ws, 12N+2); R may overlap X and P. -/
def formPowmod (s : State) (k : Fin 4) : Form :=
  .slotted k [lenUpTo (s.arg 1) (s.slotN k), lenAny (s.arg 3)]
    [⟨.X, .input, s.arg 0, s.arg 1⟩, ⟨.P, .input, s.arg 2, s.arg 3⟩, ⟨.R, .output, s.arg 4, s.slotN k⟩,
      ⟨.WK, .work, s.arg 5, 12 * s.slotN k + 2⟩]
    [(.R, .X, .overlap), (.R, .P, .overlap)] .noError

/-- POWSLD: ARG0 = T (in, 8N), ARG1 = P (in, PN), ARG2 = PN, ARG3 = R (out, N), ARG4 = WK (ws, 4N+2); R may
overlap T and P. -/
def formPowsld (s : State) (k : Fin 4) : Form :=
  .slotted k [lenAny (s.arg 2)]
    [⟨.T, .input, s.arg 0, 8 * s.slotN k⟩, ⟨.P, .input, s.arg 1, s.arg 2⟩, ⟨.R, .output, s.arg 3, s.slotN k⟩,
      ⟨.WK, .work, s.arg 4, 4 * s.slotN k + 2⟩]
    [(.R, .T, .overlap), (.R, .P, .overlap)] .noError

/-- POW2: ARG0 = P (in, PN), ARG1 = PN, ARG2 = R (out, N), ARG3 = WK (ws, 4N+2); R may overlap P. -/
def formPow2 (s : State) (k : Fin 4) : Form :=
  .slotted k [lenAny (s.arg 1)]
    [⟨.P, .input, s.arg 0, s.arg 1⟩, ⟨.R, .output, s.arg 2, s.slotN k⟩, ⟨.WK, .work, s.arg 3, 4 * s.slotN k + 2⟩]
    [(.R, .P, .overlap)] .noError

/-- RND (`least` 4) and RNDODD (`least` 5): ARG0 = R (out, N). -/
def formRnd (s : State) (k : Fin 4) (least : Nat) : Form :=
  .slotted k [] [⟨.R, .output, s.arg 0, s.slotN k⟩] [] (rangeCheck (s.modulus k) least)

/-- RNDINV: ARG0 = R (out, N), ARG1 = RI (out, N), ARG2 = WK (ws, 6N+6); parity, then range. -/
def formRndinv (s : State) (k : Fin 4) : Form :=
  .slotted k []
    [⟨.R, .output, s.arg 0, s.slotN k⟩, ⟨.RI, .output, s.arg 1, s.slotN k⟩,
      ⟨.WK, .work, s.arg 2, 6 * s.slotN k + 6⟩]
    [] (oddModulus (s.modulus k) (rangeCheck (s.modulus k) 5))

/-- The operands and checks of each command (30_encoding.md R105), as its meaning and a soft reset read them. -/
def formOf (i : Instr) (s : State) : Form :=
  match i with
  | .eq => formCompare s
  | .ne => formCompare s
  | .gt => formCompare s
  | .lt => formCompare s
  | .ge => formCompare s
  | .le => formCompare s
  | .eqx => formCompareX s
  | .nex => formCompareX s
  | .gtx => formCompareX s
  | .ltx => formCompareX s
  | .gex => formCompareX s
  | .lex => formCompareX s
  | .and => formInPlace s
  | .or => formInPlace s
  | .xor => formInPlace s
  | .not => formUnary s
  | .tstmsb => formTest s
  | .tstlsb => formTest s
  | .setmsb => formUnary s
  | .setlsb => formUnary s
  | .clrmsb => formUnary s
  | .clrlsb => formUnary s
  | .clz => formTest s
  | .ctz => formTest s
  | .lshift => formUnary s
  | .rshift => formUnary s
  | .add => formInPlace s
  | .sub => formInPlace s
  | .addx => formInPlaceX s
  | .subx => formInPlaceX s
  | .setmul => formMulWord s .output
  | .addmul => formMulWord s .inout
  | .mul => formMul s
  | .sqr => formSqr s
  | .dbl => formUnary s
  | .halve => formUnary s
  | .neg => formUnary s
  | .modw => formModw s
  | .divmod => formDivmod s
  | .gcd => formGcd s
  | .zero => formZero s
  | .copy => formCopy s
  | .setmod k => formSetmod s k
  | .ctxclr _ => formCtxclr
  | .reduce k => formReduce s k
  | .addmod k => formModPair s k
  | .submod k => formModPair s k
  | .mulmod k => formModPair s k
  | .sqrmod k => formSqrmod s k
  | .invmod k => formInvmod s k
  | .slide k => formSlide s k
  | .powmod k => formPowmod s k
  | .powsld k => formPowsld s k
  | .pow2 k => formPow2 s k
  | .rnd k => formRnd s k 4
  | .rndodd k => formRnd s k 5
  | .rndinv k => formRndinv s k

end Sys2Proof.Machine
end

