-- ==== Sys2Proof/Machine/Bitwise.lean ====
section
/-! DEFINITION. The bitwise family (42_bitwise.md). -/

namespace Sys2Proof.Machine

/-- The two-operand logical commands: X becomes `f x y`, RES becomes 0 (42_bitwise.md R160 to R162). -/
def State.logical (s : State) (f : Nat → Nat → Nat) : Out :=
  s.command (formInPlace s)
    ((s.store (s.arg 0) (s.arg 2) (f (s.val (s.arg 0) (s.arg 2)) (s.val (s.arg 1) (s.arg 2)))).setRes 0)

/-- The one-operand commands that replace X: X becomes `f x`, RES becomes `r x` (42_bitwise.md R163,
R166 to R169, 43_arith.md R198 to R200). -/
def State.unary (s : State) (f r : Nat → Nat) : Out :=
  s.command (formUnary s)
    ((s.store (s.arg 0) (s.arg 1) (f (s.val (s.arg 0) (s.arg 1)))).setRes (r (s.val (s.arg 0) (s.arg 1))))

/-- The one-operand commands that only report: RES becomes `r x` (42_bitwise.md R164, R165, R170, R171). -/
def State.report (s : State) (r : Nat → Nat) : Out :=
  s.command (formTest s) (s.setRes (r (s.val (s.arg 0) (s.arg 1))))

/-- `N*W` for the commands whose length is ARG1. -/
def State.unaryBits (s : State) : Nat := s.arg 1 * s.wordBits

/-- AND (42_bitwise.md R160). -/
def execAnd (s : State) : Out := s.logical fun x y => x &&& y

/-- OR (42_bitwise.md R161). -/
def execOr (s : State) : Out := s.logical fun x y => x ||| y

/-- XOR (42_bitwise.md R162). -/
def execXor (s : State) : Out := s.logical fun x y => x ^^^ y

/-- NOT: `B^N - 1 - x` (42_bitwise.md R163). -/
def execNot (s : State) : Out := s.unary (fun x => s.radix ^ s.arg 1 - 1 - x) fun _ => 0

/-- TSTMSB (42_bitwise.md R164). -/
def execTstmsb (s : State) : Out := s.report fun x => topBit s.unaryBits x

/-- TSTLSB (42_bitwise.md R165). -/
def execTstlsb (s : State) : Out := s.report fun x => x % 2

/-- SETMSB (42_bitwise.md R166). -/
def execSetmsb (s : State) : Out := s.unary (fun x => x ||| 2 ^ (s.unaryBits - 1)) fun _ => 0

/-- SETLSB (42_bitwise.md R167). -/
def execSetlsb (s : State) : Out := s.unary (fun x => x ||| 1) fun _ => 0

/-- CLRMSB (42_bitwise.md R168). -/
def execClrmsb (s : State) : Out :=
  s.unary (fun x => x &&& (s.radix ^ s.arg 1 - 1 - 2 ^ (s.unaryBits - 1))) fun _ => 0

/-- CLRLSB (42_bitwise.md R169). -/
def execClrlsb (s : State) : Out := s.unary (fun x => x - x % 2) fun _ => 0

/-- CLZ: `N*W - bitlen(x)` (42_bitwise.md R170). -/
def execClz (s : State) : Out := s.report fun x => leadingZeros s.unaryBits x

/-- CTZ: `N*W` for 0 (42_bitwise.md R171). -/
def execCtz (s : State) : Out :=
  s.report fun x => if x = 0 then s.unaryBits else trailingZeros s.unaryBits x

/-- LSHIFT by ARG2 bits (42_bitwise.md R172). -/
def execLshift (s : State) : Out :=
  s.unary (fun x => if s.arg 2 ≥ s.unaryBits then 0 else (x * 2 ^ s.arg 2) % s.radix ^ s.arg 1) fun _ => 0

/-- RSHIFT by ARG2 bits (42_bitwise.md R173). -/
def execRshift (s : State) : Out :=
  s.unary (fun x => if s.arg 2 ≥ s.unaryBits then 0 else x / 2 ^ s.arg 2) fun _ => 0

end Sys2Proof.Machine
end

