-- ==== Sys2Proof/Machine/Arith.lean ====
section
/-! DEFINITION. The arithmetic family (43_arith.md). -/

namespace Sys2Proof.Machine

/-- ADD (43_arith.md R190). -/
def execAdd (s : State) : Out :=
  let x := s.val (s.arg 0) (s.arg 2)
  let y := s.val (s.arg 1) (s.arg 2)
  let M := s.radix ^ s.arg 2
  s.command (formInPlace s) ((s.store (s.arg 0) (s.arg 2) ((x + y) % M)).setRes (carryOut M (x + y)))

/-- SUB (43_arith.md R191). -/
def execSub (s : State) : Out :=
  let x := s.val (s.arg 0) (s.arg 2)
  let y := s.val (s.arg 1) (s.arg 2)
  s.command (formInPlace s)
    ((s.store (s.arg 0) (s.arg 2) (subMod (s.radix ^ s.arg 2) x y)).setRes (borrowOut x y))

/-- ADDX (43_arith.md R192). -/
def execAddx (s : State) : Out :=
  let x := s.val (s.arg 0) (s.arg 1)
  let y := s.val (s.arg 2) (s.arg 3)
  let M := s.radix ^ s.arg 1
  s.command (formInPlaceX s) ((s.store (s.arg 0) (s.arg 1) ((x + y) % M)).setRes (carryOut M (x + y)))

/-- SUBX (43_arith.md R193). -/
def execSubx (s : State) : Out :=
  let x := s.val (s.arg 0) (s.arg 1)
  let y := s.val (s.arg 2) (s.arg 3)
  s.command (formInPlaceX s)
    ((s.store (s.arg 0) (s.arg 1) (subMod (s.radix ^ s.arg 1) x y)).setRes (borrowOut x y))

/-- SETMUL (43_arith.md R194). -/
def execSetmul (s : State) : Out :=
  let t := s.val (s.arg 1) (s.arg 2) * s.word (s.arg 3)
  let M := s.radix ^ s.arg 2
  s.command (formMulWord s .output) ((s.store (s.arg 0) (s.arg 2) (t % M)).setRes (carryOut M t))

/-- ADDMUL (43_arith.md R195). -/
def execAddmul (s : State) : Out :=
  let t := s.val (s.arg 0) (s.arg 2) + s.val (s.arg 1) (s.arg 2) * s.word (s.arg 3)
  let M := s.radix ^ s.arg 2
  s.command (formMulWord s .inout) ((s.store (s.arg 0) (s.arg 2) (t % M)).setRes (carryOut M t))

/-- MUL (43_arith.md R196). -/
def execMul (s : State) : Out :=
  s.command (formMul s)
    ((s.store (s.arg 0) (s.arg 2 + s.arg 4) (s.val (s.arg 1) (s.arg 2) * s.val (s.arg 3) (s.arg 4))).setRes 0)

/-- SQR (43_arith.md R197). -/
def execSqr (s : State) : Out :=
  let x := s.val (s.arg 1) (s.arg 2)
  s.command (formSqr s) ((s.store (s.arg 0) (2 * s.arg 2) (x * x)).setRes 0)

/-- DBL (43_arith.md R198). -/
def execDbl (s : State) : Out :=
  s.unary (fun x => (2 * x) % s.radix ^ s.arg 1) fun x => x / 2 ^ (s.unaryBits - 1)

/-- HALVE (43_arith.md R199). -/
def execHalve (s : State) : Out := s.unary (fun x => x / 2) fun x => x % 2

/-- NEG: bitwise not, then increment (43_arith.md R200). -/
def execNeg (s : State) : Out :=
  s.unary (fun x => (s.radix ^ s.arg 1 - 1 - x + 1) % s.radix ^ s.arg 1) fun _ => 0

end Sys2Proof.Machine
end

