-- ==== Sys2Proof/Machine/Compare.lean ====
section
/-! DEFINITION. The compare family (41_compare.md). -/

namespace Sys2Proof.Machine

/-- The equal-length compares: `p` of the two N-word values goes to RES (41_compare.md R140 to R145). -/
def State.compare (s : State) (p : Nat → Nat → Bool) : Out :=
  s.command (formCompare s) (s.setRes (asBit (p (s.val (s.arg 0) (s.arg 2)) (s.val (s.arg 1) (s.arg 2)))))

/-- The size-aware compares: the shorter operand is zero-extended, which leaves its value
(41_compare.md R146 to R151). -/
def State.compareX (s : State) (p : Nat → Nat → Bool) : Out :=
  s.command (formCompareX s) (s.setRes (asBit (p (s.val (s.arg 0) (s.arg 1)) (s.val (s.arg 2) (s.arg 3)))))

/-- EQ (41_compare.md R140). -/
def execEq (s : State) : Out := s.compare fun x y => decide (x = y)

/-- NE (41_compare.md R141). -/
def execNe (s : State) : Out := s.compare fun x y => decide (x ≠ y)

/-- GT (41_compare.md R142). -/
def execGt (s : State) : Out := s.compare fun x y => decide (x > y)

/-- LT (41_compare.md R143). -/
def execLt (s : State) : Out := s.compare fun x y => decide (x < y)

/-- GE (41_compare.md R144). -/
def execGe (s : State) : Out := s.compare fun x y => decide (x ≥ y)

/-- LE (41_compare.md R145). -/
def execLe (s : State) : Out := s.compare fun x y => decide (x ≤ y)

/-- EQX (41_compare.md R146). -/
def execEqx (s : State) : Out := s.compareX fun x y => decide (x = y)

/-- NEX (41_compare.md R147). -/
def execNex (s : State) : Out := s.compareX fun x y => decide (x ≠ y)

/-- GTX (41_compare.md R148). -/
def execGtx (s : State) : Out := s.compareX fun x y => decide (x > y)

/-- LTX (41_compare.md R149). -/
def execLtx (s : State) : Out := s.compareX fun x y => decide (x < y)

/-- GEX (41_compare.md R150). -/
def execGex (s : State) : Out := s.compareX fun x y => decide (x ≥ y)

/-- LEX (41_compare.md R151). -/
def execLex (s : State) : Out := s.compareX fun x y => decide (x ≤ y)

end Sys2Proof.Machine
end

