-- ==== Sys2Proof/Machine/Data.lean ====
section
/-! DEFINITION. The data family: wipe and copy (45_data.md). -/

namespace Sys2Proof.Machine

/-- ZERO (45_data.md R240). -/
def execZero (s : State) : Out := s.command (formZero s) ((s.store (s.arg 0) (s.arg 1) 0).setRes 0)

/-- COPY (45_data.md R241). -/
def execCopy (s : State) : Out :=
  s.command (formCopy s) ((s.store (s.arg 0) (s.arg 2) (s.val (s.arg 1) (s.arg 2))).setRes 0)

end Sys2Proof.Machine
end

