-- ==== Sys2Proof/Machine/Divide.lean ====
section
/-! DEFINITION. The division family (44_divide.md). -/

namespace Sys2Proof.Machine

/-- MODW (44_divide.md R220). -/
def execModw (s : State) : Out :=
  s.command (formModw s) (s.setRes (s.val (s.arg 0) (s.arg 1) % s.word (s.arg 2)))

/-- DIVMOD (44_divide.md R221). -/
def execDivmod (s : State) : Out :=
  let x := s.val (s.arg 0) (s.arg 1)
  let y := s.val (s.arg 2) (s.arg 3)
  s.command (formDivmod s)
    ((((s.store (s.arg 4) (s.arg 1 - s.arg 3 + 1) (x / y)).store (s.arg 5) (s.arg 3) (x % y)).havoc (s.arg 6)
      (s.arg 1 + s.arg 3 + 2)).setRes 0)

/-- GCD (44_divide.md R222). -/
def execGcd (s : State) : Out :=
  let x := s.val (s.arg 1) (s.arg 3)
  let y := s.val (s.arg 2) (s.arg 3)
  s.command (formGcd s) (((s.store (s.arg 0) (s.arg 3) (Nat.gcd x y)).havoc (s.arg 4) (2 * s.arg 3)).setRes 0)

end Sys2Proof.Machine
end

