-- ==== Sys2Proof/Machine/Barrett.lean ====
section
/-! DEFINITION. The Barrett context and modular arithmetic family (46_barrett.md). -/

namespace Sys2Proof.Machine

/-- A modular command's effect: R receives residue `v`, the workspace is havocked, RES becomes 0
(46_barrett.md R264, R265). -/
def State.residue (s : State) (k : Fin 4) (r v wk wkLen : Nat) : State :=
  ((s.store r (s.slotN k) v).havoc wk wkLen).setRes 0

/-- SETMOD (46_barrett.md R250, R252). -/
def execSetmod (k : Fin 4) (s : State) : Out :=
  let n := s.arg 1
  let a := s.arg 2
  let m := s.val (s.arg 0) n
  s.command (formSetmod s k)
    (((((s.store a n m).store (a + n) (n + 1) (s.radix ^ (2 * n) / m)).havoc (s.arg 3) (5 * n + 4)).setSlot k
      { base := s.latchedArgs.get 2, n := s.latchedArgs.get 1, valid := true }).setRes 0)

/-- CTXCLR (46_barrett.md R255). -/
def execCtxclr (k : Fin 4) (s : State) : Out := s.command formCtxclr ((s.setSlot k .empty).setRes 0)

/-- REDUCE (46_barrett.md R256). -/
def execReduce (k : Fin 4) (s : State) : Out :=
  s.command (formReduce s k)
    (s.residue k (s.arg 2) (s.val (s.arg 0) (s.arg 1) % s.modulus k) (s.arg 3) (2 * s.slotN k + 2))

/-- ADDMOD (46_barrett.md R258). -/
def execAddmod (k : Fin 4) (s : State) : Out :=
  let x := s.val (s.arg 0) (s.arg 1)
  let y := s.val (s.arg 2) (s.arg 3)
  s.command (formModPair s k) (s.residue k (s.arg 4) ((x + y) % s.modulus k) (s.arg 5) (4 * s.slotN k + 2))

/-- SUBMOD: the exact residue for every operand size (46_barrett.md R259). -/
def execSubmod (k : Fin 4) (s : State) : Out :=
  let x := s.val (s.arg 0) (s.arg 1)
  let y := s.val (s.arg 2) (s.arg 3)
  s.command (formModPair s k) (s.residue k (s.arg 4) (subMod (s.modulus k) x y) (s.arg 5) (4 * s.slotN k + 2))

/-- MULMOD (46_barrett.md R260). -/
def execMulmod (k : Fin 4) (s : State) : Out :=
  let x := s.val (s.arg 0) (s.arg 1)
  let y := s.val (s.arg 2) (s.arg 3)
  s.command (formModPair s k) (s.residue k (s.arg 4) (x * y % s.modulus k) (s.arg 5) (4 * s.slotN k + 2))

/-- SQRMOD (46_barrett.md R261). -/
def execSqrmod (k : Fin 4) (s : State) : Out :=
  let x := s.val (s.arg 0) (s.arg 1)
  s.command (formSqrmod s k) (s.residue k (s.arg 2) (x * x % s.modulus k) (s.arg 3) (4 * s.slotN k + 2))

/-- INVMOD: when the value is not invertible, R is not written and RES is 0; the workspace is havocked in
both cases (46_barrett.md R262). -/
def execInvmod (k : Fin 4) (s : State) : Out :=
  let m := s.modulus k
  let a := s.val (s.arg 0) (s.arg 1) % m
  s.command (formInvmod s k)
    (if Nat.gcd a m = 1 then
      ((s.store (s.arg 2) (s.slotN k) (invMod m a)).havoc (s.arg 3) (6 * s.slotN k + 6)).setRes 1
    else (s.havoc (s.arg 3) (6 * s.slotN k + 6)).setRes 0)

end Sys2Proof.Machine
end

