-- ==== Sys2Proof/Machine/Powmod.lean ====
section
/-! DEFINITION. The modular exponentiation family (47_powmod.md). -/

namespace Sys2Proof.Machine

/-- Entry `i` of the slide table at `t` (47_powmod.md R291). -/
def State.tableEntry (s : State) (k : Fin 4) (t i : Nat) : Nat := s.val (t + i * s.slotN k) (s.slotN k)

/-- SLIDE (47_powmod.md R294). -/
def execSlide (k : Fin 4) (s : State) : Out :=
  let x := s.val (s.arg 0) (s.arg 1)
  s.command (formSlide s k)
    (((s.storeTable (s.arg 2) (s.slotN k) (oddPower (s.modulus k) x) 8).havoc (s.arg 3) (4 * s.slotN k + 2)).setRes 0)

/-- POWMOD (47_powmod.md R295). -/
def execPowmod (k : Fin 4) (s : State) : Out :=
  let x := s.val (s.arg 0) (s.arg 1)
  let p := s.val (s.arg 2) (s.arg 3)
  s.command (formPowmod s k)
    (s.residue k (s.arg 4) (windowDecode (s.modulus k) (oddPower (s.modulus k) x) p) (s.arg 5)
      (12 * s.slotN k + 2))

/-- POWSLD (47_powmod.md R296). -/
def execPowsld (k : Fin 4) (s : State) : Out :=
  let p := s.val (s.arg 1) (s.arg 2)
  s.command (formPowsld s k)
    (s.residue k (s.arg 3) (windowDecode (s.modulus k) (s.tableEntry k (s.arg 0)) p) (s.arg 4)
      (4 * s.slotN k + 2))

/-- POW2 (47_powmod.md R297). -/
def execPow2 (k : Fin 4) (s : State) : Out :=
  let p := s.val (s.arg 0) (s.arg 1)
  s.command (formPow2 s k) (s.residue k (s.arg 2) (pow2Mod (s.modulus k) p) (s.arg 3) (4 * s.slotN k + 2))

end Sys2Proof.Machine
end

