-- ==== Sys2Proof/Machine/Random.lean ====
section
/-! DEFINITION. The random element sampling family (48_random.md). -/

namespace Sys2Proof.Machine

/-- The candidate the next `N` words of the random source form (48_random.md R321). -/
def State.nextCandidate (s : State) (k : Fin 4) : Nat :=
  candidate s.radix (topMask s.wordBits (s.word (s.slotBase k))) (s.rng.take (s.slotN k))

/-- The `N` draws of one attempt are taken (48_random.md R321). -/
def State.takeDraws (s : State) (k : Fin 4) : State := { s with rng := s.rng.drop (s.slotN k) }

/-- A rejected attempt: only the hidden attempt count changes (48_random.md R322). -/
def State.retry (s : State) : State :=
  { s with pending := s.pending.map fun p => { p with attempts := p.attempts + 1 } }

/-- One step of a sampling command (48_random.md R322). A failed check ends it before any draw; with fewer
than `N` words ready it waits (20_memory.md R90, log 6); otherwise one attempt either completes it with
effect `eff` or is rejected. Nothing a check reads can change between attempts (log 13). -/
def State.sample (s : State) (f : Form) (k : Fin 4) (accept : Bool) (eff : State → State) : Out :=
  if f.firstError s ≠ .noError then .next (s.complete (f.firstError s))
  else if s.rng.length < s.slotN k then .next s
  else if accept then .next ((eff (s.takeDraws k)).complete .noError)
  else .next (s.takeDraws k).retry

/-- RND (48_random.md R323). -/
def execRnd (k : Fin 4) (s : State) : Out :=
  let c := s.nextCandidate k
  s.sample (formRnd s k 4) k (inRange (s.modulus k) c) fun t => (t.store (t.arg 0) (t.slotN k) c).setRes 0

/-- RNDODD: odd is forced after masking and before the test (48_random.md R324). -/
def execRndodd (k : Fin 4) (s : State) : Out :=
  let c := s.nextCandidate k ||| 1
  s.sample (formRnd s k 5) k (inRange (s.modulus k) c) fun t => (t.store (t.arg 0) (t.slotN k) c).setRes 0

/-- RNDINV (48_random.md R325). -/
def execRndinv (k : Fin 4) (s : State) : Out :=
  let c := s.nextCandidate k
  let m := s.modulus k
  s.sample (formRndinv s k) k (inRange m c && decide (Nat.gcd c m = 1)) fun t =>
    (((t.store (t.arg 0) (t.slotN k) c).store (t.arg 1) (t.slotN k) (invMod m c)).havoc (t.arg 2)
      (6 * t.slotN k + 6)).setRes 0

end Sys2Proof.Machine
end

