-- ==== Sys2Proof/Machine/Dispatch.lean ====
section
/-! DEFINITION. The one dispatch of the commands to their meanings. -/

namespace Sys2Proof.Machine

/-- The unit executes the pending command, which decodes to `i`. -/
def exec (i : Instr) (s : State) : Host.Outcome State Fault Refusal :=
  match i with
  | .eq => Sys2Proof.Machine.execEq s
  | .ne => Sys2Proof.Machine.execNe s
  | .gt => Sys2Proof.Machine.execGt s
  | .lt => Sys2Proof.Machine.execLt s
  | .ge => Sys2Proof.Machine.execGe s
  | .le => Sys2Proof.Machine.execLe s
  | .eqx => Sys2Proof.Machine.execEqx s
  | .nex => Sys2Proof.Machine.execNex s
  | .gtx => Sys2Proof.Machine.execGtx s
  | .ltx => Sys2Proof.Machine.execLtx s
  | .gex => Sys2Proof.Machine.execGex s
  | .lex => Sys2Proof.Machine.execLex s
  | .and => Sys2Proof.Machine.execAnd s
  | .or => Sys2Proof.Machine.execOr s
  | .xor => Sys2Proof.Machine.execXor s
  | .not => Sys2Proof.Machine.execNot s
  | .tstmsb => Sys2Proof.Machine.execTstmsb s
  | .tstlsb => Sys2Proof.Machine.execTstlsb s
  | .setmsb => Sys2Proof.Machine.execSetmsb s
  | .setlsb => Sys2Proof.Machine.execSetlsb s
  | .clrmsb => Sys2Proof.Machine.execClrmsb s
  | .clrlsb => Sys2Proof.Machine.execClrlsb s
  | .clz => Sys2Proof.Machine.execClz s
  | .ctz => Sys2Proof.Machine.execCtz s
  | .lshift => Sys2Proof.Machine.execLshift s
  | .rshift => Sys2Proof.Machine.execRshift s
  | .add => Sys2Proof.Machine.execAdd s
  | .sub => Sys2Proof.Machine.execSub s
  | .addx => Sys2Proof.Machine.execAddx s
  | .subx => Sys2Proof.Machine.execSubx s
  | .setmul => Sys2Proof.Machine.execSetmul s
  | .addmul => Sys2Proof.Machine.execAddmul s
  | .mul => Sys2Proof.Machine.execMul s
  | .sqr => Sys2Proof.Machine.execSqr s
  | .dbl => Sys2Proof.Machine.execDbl s
  | .halve => Sys2Proof.Machine.execHalve s
  | .neg => Sys2Proof.Machine.execNeg s
  | .modw => Sys2Proof.Machine.execModw s
  | .divmod => Sys2Proof.Machine.execDivmod s
  | .gcd => Sys2Proof.Machine.execGcd s
  | .zero => Sys2Proof.Machine.execZero s
  | .copy => Sys2Proof.Machine.execCopy s
  | .setmod k => Sys2Proof.Machine.execSetmod k s
  | .ctxclr k => Sys2Proof.Machine.execCtxclr k s
  | .reduce k => Sys2Proof.Machine.execReduce k s
  | .addmod k => Sys2Proof.Machine.execAddmod k s
  | .submod k => Sys2Proof.Machine.execSubmod k s
  | .mulmod k => Sys2Proof.Machine.execMulmod k s
  | .sqrmod k => Sys2Proof.Machine.execSqrmod k s
  | .invmod k => Sys2Proof.Machine.execInvmod k s
  | .slide k => Sys2Proof.Machine.execSlide k s
  | .powmod k => Sys2Proof.Machine.execPowmod k s
  | .powsld k => Sys2Proof.Machine.execPowsld k s
  | .pow2 k => Sys2Proof.Machine.execPow2 k s
  | .rnd k => Sys2Proof.Machine.execRnd k s
  | .rndodd k => Sys2Proof.Machine.execRndodd k s
  | .rndinv k => Sys2Proof.Machine.execRndinv k s

end Sys2Proof.Machine
end

