-- ==== Sys2Proof/Machine/HostPort.lean ====
section
/-! DEFINITION. The host's side: the register port, the LM port, soft reset, and the host accesses that a
line of assembly stands for. -/

namespace Sys2Proof.Machine

/-- ID (10_state.md R40). -/
def State.idReg (s : State) : Reg := 0x57010400 ||| BitVec.ofNat 32 s.wordBits

/-- LMSIZE: `LM_WORDS` in bits 24:0 (10_state.md R41). -/
def State.lmSizeReg (s : State) : Reg := BitVec.ofNat 32 (s.params.lmWords % 2 ^ 25)

/-- CTRL: IE in bit 0, the rest reads 0 (10_state.md R42). -/
def State.ctrlReg (s : State) : Reg := BitVec.ofNat 32 (s.ie.toNat)

/-- STATUS (10_state.md R43). -/
def State.statusReg (s : State) : Reg :=
  BitVec.ofNat 32
    (s.busy.toNat + 2 * s.done.toNat + 4 * s.err.toNat + 8 * s.ovr.toNat + 2 ^ 8 * s.errCode.code.toNat)

/-- RES_LO: `RES[31:0]` (10_state.md R45). -/
def State.resLoReg (s : State) : Reg := BitVec.ofNat 32 (s.resVal % 2 ^ 32)

/-- RES_HI: `RES[63:32]` when W = 64, 0 when W = 32 (10_state.md R45). -/
def State.resHiReg (s : State) : Reg :=
  match s.params.width with
  | .w32 => 0
  | .w64 => BitVec.ofNat 32 (s.resVal / 2 ^ 32)

/-- CTXVALID: bit `k` is `CTX[k].VALID` (10_state.md R46). -/
def State.ctxValidReg (s : State) : Reg :=
  BitVec.ofNat 32
    ((s.slot 0).valid.toNat + 2 * (s.slot 1).valid.toNat + 4 * (s.slot 2).valid.toNat +
      8 * (s.slot 3).valid.toNat)

/-- What a read of the register at offset `off` returns (10_state.md R31); reserved offsets read 0 (R48). -/
def State.readReg (s : State) (off : Nat) : Reg :=
  match off with
  | 0x00 => s.idReg
  | 0x04 => s.lmSizeReg
  | 0x08 => s.ctrlReg
  | 0x0C => s.statusReg
  | 0x10 => s.cmd
  | 0x14 => s.resLoReg
  | 0x18 => s.resHiReg
  | 0x1C => s.ctxValidReg
  | 0x20 => s.args.get 0
  | 0x24 => s.args.get 1
  | 0x28 => s.args.get 2
  | 0x2C => s.args.get 3
  | 0x30 => s.args.get 4
  | 0x34 => s.args.get 5
  | 0x38 => s.args.get 6
  | 0x3C => s.args.get 7
  | 0x40 => (s.slot 0).base
  | 0x44 => (s.slot 0).n
  | 0x48 => (s.slot 1).base
  | 0x4C => (s.slot 1).n
  | 0x50 => (s.slot 2).base
  | 0x54 => (s.slot 2).n
  | 0x58 => (s.slot 3).base
  | 0x5C => (s.slot 3).n
  | _ => 0

/-- Every buffer of a list that a command writes is havocked (70_reset_and_hazards.md R382). -/
def State.havocWritten : State → List Buf → State
  | s, [] => s
  | s, b :: bs => State.havocWritten (if b.written then s.havoc b.addr b.len else s) bs

/-- The partial results of an aborted command: when it passes every check, its out, io and ws buffers hold
unspecified values (70_reset_and_hazards.md R382). -/
def State.abortHavoc (s : State) : State :=
  match s.pending with
  | none => s
  | some p =>
    match decode p.cmd with
    | .error _ => s
    | .ok i => if (formOf i s).firstError s = .noError then s.havocWritten (formOf i s).bufs else s

/-- The held LM accesses are released (20_memory.md R83). -/
def State.releaseHeld (s : State) : State := State.lmPerformAll { s with held := [] } s.held

/-- The registers and slots after a reset, power-on or soft (70_reset_and_hazards.md R380, R382, R383). -/
def State.clearRegisters (s : State) : State :=
  { s with ie := false, done := false, err := false, ovr := false, errCode := .noError, cmd := 0, res := 0,
           args := .zero, ctx := .empty }

/-- Soft reset, in one step (70_reset_and_hazards.md R382). -/
def State.softReset (s : State) : State :=
  (State.releaseHeld { s.abortHavoc with pending := none }).clearRegisters

/-- A host write to CTRL (10_state.md R42): bit 1 is the soft reset, which leaves IE = 0 (log 9), and bit 0
is IE. -/
def State.writeCtrl (s : State) (v : Reg) : State :=
  if v.getLsbD 1 then s.softReset else { s with ie := v.getLsbD 0 }

/-- A host write to CMD: accepted when idle, ignored and recorded in OVR when busy (10_state.md R44). -/
def State.writeCmd (s : State) (v : Reg) : State := if s.busy then { s with ovr := true } else s.accept v

/-- A host write to ARG `i`: ignored and recorded in OVR when busy (10_state.md R32). -/
def State.writeArg (s : State) (i : Fin 8) (v : Reg) : State :=
  if s.busy then { s with ovr := true } else { s with args := s.args.set v i }

/-- A host write to the register at offset `off` (10_state.md R31); writes to read-only and reserved offsets
are ignored (R40, R41, R45 to R48). -/
def State.writeReg (s : State) (off : Nat) (v : Reg) : State :=
  match off with
  | 0x08 => s.writeCtrl v
  | 0x0C => s.writeStatus v
  | 0x10 => s.writeCmd v
  | 0x20 => s.writeArg 0 v
  | 0x24 => s.writeArg 1 v
  | 0x28 => s.writeArg 2 v
  | 0x2C => s.writeArg 3 v
  | 0x30 => s.writeArg 4 v
  | 0x34 => s.writeArg 5 v
  | 0x38 => s.writeArg 6 v
  | 0x3C => s.writeArg 7 v
  | _ => s

/-- A register access the port takes: 32 bits at a multiple of 4 (20_memory.md R71). -/
def regAccessOk (off bits : Nat) : Bool := decide (bits = 32) && decide (off % 4 = 0)

/-- A host access takes effect, or, for an LM access while BUSY, is held (20_memory.md R70, R71, R83). -/
def State.hostAccess (s : State) : HostAccess → Out
  | .regRead off bits =>
    if regAccessOk off bits then .next { s with replies := s.replies ++ [.reg off (s.readReg off)] }
    else .refused (.registerProtocol off bits)
  | .regWrite off bits v =>
    if regAccessOk off bits then .next (s.writeReg off v) else .refused (.registerProtocol off bits)
  | .lm x => if s.busy then .next { s with held := s.held ++ [x] } else .next (s.lmPerform x)

/-- The random source delivers a word (20_memory.md R90). -/
def State.deliver (s : State) (w : Word) : State := { s with rng := s.rng ++ [w] }

/-- A host write of a 32-bit register. -/
def regPut (off : Nat) (v : Reg) : Turn := .host (.regWrite off 32 v)

/-- A host read of a 32-bit register. -/
def regGet (off : Nat) : Turn := .host (.regRead off 32)

/-- The argument writes of one command line: operand `i` to offset `0x20 + 4i` (30_encoding.md R111). -/
def argPuts : Nat → List Reg → List Turn
  | _, [] => []
  | i, v :: vs => regPut (0x20 + 4 * i) v :: argPuts (i + 1) vs

/-- One command line (30_encoding.md R111): the argument writes, the CMD write, and the unit's step for
which the host's WAIT stands (a sampling command may need more of them). -/
def commandLine (i : Instr) (operands : List Reg) : List Turn :=
  argPuts 0 operands ++ [regPut 0x10 (encode i), .unit]

/-- `LMW a, v` (30_encoding.md R112). -/
def lmw (a : Nat) (v : Word) : Turn := .host (.lm (.write a v))

/-- `LMR a` (30_encoding.md R112). -/
def lmr (a : Nat) : Turn := .host (.lm (.read a))

/-- `LMWB a, n, v`: `n` host writes that store `v` as `Store(a, n, v)` does (30_encoding.md R112). -/
def lmwb (B a : Nat) : Nat → Nat → List Turn
  | 0, _ => []
  | n + 1, v => lmwb B a n (v / B) ++ [lmw (a + n) (BitVec.ofNat 64 (v % B))]

/-- The STATUS read of `WAIT` and `CHECK` (30_encoding.md R112). -/
def readStatus : Turn := regGet 0x0C

/-- `RES` (30_encoding.md R112): RES_LO, and RES_HI when W = 64. -/
def readRes : Width → List Turn
  | .w32 => [regGet 0x14]
  | .w64 => [regGet 0x14, regGet 0x18]

/-- `ACK` (30_encoding.md R112). -/
def acknowledge : Turn := regPut 0x0C 0x00000006

end Sys2Proof.Machine
end

