-- ==== Sys2Proof/Machine/Unit.lean ====
section
/-! DEFINITION. What happens next: the choice of the agent that moves, and the command the unit runs. -/

namespace Sys2Proof.Machine

/-- What the unit has to run. -/
inductive UnitWork where
  | idle
  | bad (e : DecodeError)
  | run (i : Instr)
deriving DecidableEq, Repr

/-- The pending command, decoded (30_encoding.md R101). -/
def State.pendingInstr (s : State) : UnitWork :=
  match s.pending with
  | none => .idle
  | some p =>
    match decode p.cmd with
    | .error e => .bad e
    | .ok i => .run i

/-- The event of one step, with the state it takes effect on. -/
inductive Event where
  | release (x : LmAccess) (s : State)
  | unit (s : State)
  | host (x : HostAccess) (s : State)
  | random (w : Word) (s : State)
  | powerOn (s : State)

/-- The first turn, taken off the list; with no turn left the unit moves (log 7). -/
def State.nextTurn (s : State) : Event :=
  match s.turns with
  | [] => .unit s
  | .unit :: ts => .unit { s with turns := ts }
  | .host x :: ts => .host x { s with turns := ts }
  | .random w :: ts => .random w { s with turns := ts }
  | .powerOn :: ts => .powerOn { s with turns := ts }

/-- The next event: while the unit is not busy, the oldest held LM access; otherwise the next turn
(20_memory.md R83, log 8). -/
def State.nextEvent (s : State) : Event :=
  if s.busy then s.nextTurn
  else
    match s.held with
    | [] => s.nextTurn
    | x :: xs => .release x { s with held := xs }

/-- `s` after the host's accepted write of the word `w` to CMD, the unit to move next (10_state.md R44, R55). -/
def State.placeCommand (s : State) (nbits w : Nat) : State :=
  let t := s.accept (BitVec.ofNat 32 (w % 2 ^ nbits))
  { t with turns := .unit :: s.turns }

end Sys2Proof.Machine
end

