-- ==== Sys2Proof/Machine/Step.lean ====
section
/-! DEFINITION. One step of the unit with the agents around it, and placing a command as the next one run. -/

namespace Sys2Proof.Machine

/-- One step of the unit (20_memory.md R84): the pending command executes; a word that is no command ends
with its error code (30_encoding.md R101); with no command pending the unit is idle (60_exceptions.md R365). -/
def State.unitStep (s : State) : Out :=
  match s.pendingInstr with
  | .idle => .next s
  | .bad e => .next (s.complete (.ofDecode e))
  | .run i => exec i s

/-- One step. LM accesses held during a command take effect first once it has completed (20_memory.md R83,
log 8); then the next turn is taken (log 7), and with no turn given the unit steps. -/
def step (s : State) : Host.Outcome State Fault Refusal :=
  match s.nextEvent with
  | .release x s' => .next (s'.lmPerform x)
  | .unit s' => s'.unitStep
  | .host x s' => s'.hostAccess x
  | .random w s' => .next (s'.deliver w)
  | .powerOn s' => .next s'.powerOn

/-- `s` with command word `w` accepted and the unit's step next (log 14). -/
def State.withFetchWord (s : State) (nbits w : Nat) : State :=
  s.placeCommand nbits w

end Sys2Proof.Machine
end

