-- ==== Sys2Proof/Safety.lean ====
section
/-! DEFINITION. What counts as a sound state of the unit, and the conditions under which a command passes
its checks, in the spec's terms. -/

namespace Sys2Proof.Machine

/-- Buffers `(a, n)` and `(b, m)` do not overlap (00_scope.md R15), for buffers of at least one word. -/
abbrev Apart (a n b m : Nat) : Prop := a + n ≤ b ∨ b + m ≤ a

/-- Buffer `(a, n)` lies inside the limb memory (20_memory.md R77). -/
abbrev State.Fits (s : State) (a n : Nat) : Prop := a + n ≤ s.params.lmWords

/-- Buffer `(a, n)` is apart from the context region of every valid slot (20_memory.md R81). -/
abbrev State.Clear (s : State) (a n : Nat) : Prop :=
  ∀ k : Fin 4, (s.slot k).valid = true → Apart a n (s.slotBase k) (2 * s.slotN k + 1)

/-- Buffer `(a, n)` is apart from the context region of every valid slot other than `k`: what SETMOD on
slot `k` must meet (20_memory.md R81, 46_barrett.md R250). -/
abbrev State.ClearBut (s : State) (k : Fin 4) (a n : Nat) : Prop :=
  ∀ j : Fin 4, j ≠ k → (s.slot j).valid = true → Apart a n (s.slotBase j) (2 * s.slotN j + 1)

/-- The context region of a valid slot lies inside the memory and holds a modulus and its coefficient
(10_state.md R52). -/
abbrev State.SlotSound (s : State) (k : Fin 4) : Prop :=
  (s.slot k).valid = true →
    s.Fits (s.slotBase k) (2 * s.slotN k + 1) ∧
      s.radix ^ (s.slotN k - 1) < s.modulus k ∧ s.modulus k < s.radix ^ s.slotN k ∧
        s.coefficient k = s.radix ^ (2 * s.slotN k) / s.modulus k

/-- Slot `k` is valid (46_barrett.md R263), and sound (10_state.md R52). -/
abbrev State.SlotReady (s : State) (k : Fin 4) : Prop := (s.slot k).valid = true ∧ s.SlotSound k

/-- Every valid slot is sound, and no two share a word of their regions (10_state.md R52, 46_barrett.md R254). -/
def State.SlotsSound (s : State) : Prop :=
  (∀ k, s.SlotSound k) ∧
    ∀ j k, j ≠ k → (s.slot j).valid = true → (s.slot k).valid = true →
      Apart (s.slotBase j) (2 * s.slotN j + 1) (s.slotBase k) (2 * s.slotN k + 1)

/-- The limb memory is in its canonical form, and RES holds a word (10_state.md R33, R53). -/
def State.MemorySound (s : State) : Prop :=
  Memory.wf s.radix s.params.lmWords s.lm = true ∧ s.res.toNat < s.radix

/-- While a command is pending DONE, ERR and ERRCODE are 0 and the latched command word and arguments are
those of the registers, which no host write changes meanwhile; ERR is set only with an error code
(10_state.md R32, R43, R44, R55, 70_reset_and_hazards.md R392). -/
def State.StatusSound (s : State) : Prop :=
  (∀ p, s.pending = some p → s.done = false ∧ s.err = false ∧ s.errCode = .noError ∧ p.cmd = s.cmd ∧ p.args = s.args) ∧
    (s.err = true → s.errCode ≠ .noError)

/-- A state that a step may start from: the parameters are admitted and every part is sound. -/
def State.Sound (s : State) : Prop := s.params.Admitted ∧ s.MemorySound ∧ s.StatusSound ∧ s.SlotsSound

/-- 60_exceptions.md R345 step 3. -/
def Form.SlotPasses (f : Form) (s : State) : Prop := ∀ k, f.slot = some k → (s.slot k).valid = true

/-- 60_exceptions.md R345 step 4. -/
def Form.LengthsPass (f : Form) : Prop := ∀ l ∈ f.lengths, 1 ≤ l.value ∧ ∀ u, l.bound = some u → l.value ≤ u

/-- 60_exceptions.md R345 step 5. -/
def Form.RangePasses (f : Form) (s : State) : Prop := ∀ b ∈ f.bufs, s.Fits b.addr b.len

/-- 60_exceptions.md R345 step 6: of every two buffers, the regions share no word, or both are `in`, or the
command permits how they lie (20_memory.md R80). -/
def Form.OverlapPasses (f : Form) : Prop :=
  f.bufs.Pairwise fun b c =>
    (¬∃ a, b.addr ≤ a ∧ a < b.addr + b.len ∧ c.addr ≤ a ∧ a < c.addr + c.len) ∨
      (b.role = .input ∧ c.role = .input) ∨ f.permitted b c = true

/-- 60_exceptions.md R345 step 7: no written buffer shares a word with the region of a valid slot, but
SETMOD with its own slot's (20_memory.md R81). -/
def Form.ProtectionPasses (f : Form) (s : State) : Prop :=
  ∀ b ∈ f.bufs, b.role ≠ .input → ∀ k, f.own ≠ some k → (s.slot k).valid = true →
    ¬∃ a, b.addr ≤ a ∧ a < b.addr + b.len ∧ s.slotBase k ≤ a ∧ a < s.slotBase k + (2 * s.slotN k + 1)

/-- Every structural check of a command passes (60_exceptions.md R345, steps 3 to 7). -/
def Form.CommonPass (f : Form) (s : State) : Prop :=
  f.SlotPasses s ∧ f.LengthsPass ∧ f.RangePasses s ∧ f.OverlapPasses ∧ f.ProtectionPasses s

/-- Address `a` belongs to a buffer the command may write: an `io`, `out` or `ws` buffer (00_scope.md R15). -/
def Form.Writes (f : Form) (a : Nat) : Prop := ∃ b ∈ f.bufs, b.role ≠ .input ∧ b.addr ≤ a ∧ a < b.addr + b.len

/-- `t` is `s` with its command ended with error code `e` and no other effect (60_exceptions.md R343, R344). -/
def State.Failed (t s : State) (e : ErrorCode) : Prop :=
  t = { s with pending := none, done := true, err := true, errCode := e }

/-- Two buffers, each an address and a length, overlap: they share a word (00_scope.md R15). -/
abbrev Meet (b c : Nat × Nat) : Prop := ∃ a, b.1 ≤ a ∧ a < b.1 + b.2 ∧ c.1 ≤ a ∧ a < c.1 + c.2

/-- Buffer `b` meets the context region of a valid slot other than `own` (10_state.md R51, 20_memory.md R81). -/
abbrev State.MeetsRegion (s : State) (own : Option (Fin 4)) (b : Nat × Nat) : Prop :=
  ∃ k : Fin 4, own ≠ some k ∧ (s.slot k).valid = true ∧ Meet b (s.slotBase k, 2 * s.slotN k + 1)

/-- 60_exceptions.md R345 steps 5, 6 and 7 for each command of `is`, in the terms of its rule: `ins` are its `in`
buffers, `outs` its `out`, `io` and `ws` buffers, `refused` says that two of them overlap in a way it does not
permit, and `own` is the slot whose region it may write. -/
def State.BufferChecks (s : State) (own : Option (Fin 4)) (is : List Instr) (ins outs : List (Nat × Nat))
    (refused : Prop) : Prop :=
  ∀ i ∈ is,
    let ends (e : ErrorCode) : Prop := ∃ t, exec i s = .next t ∧ t.Failed s e
    let fit : Prop := ∀ b ∈ ins ++ outs, s.Fits b.1 b.2
    (¬fit → ends .outOfRange) ∧ (fit → refused → ends .overlap) ∧
      (fit → ¬refused → (∃ b ∈ outs, s.MeetsRegion own b) → ends .ctxClobber)

/-- EQ to LE pass every check (41_compare.md R140). -/
abbrev State.CompareReady (s : State) : Prop :=
  1 ≤ s.arg 2 ∧ s.Fits (s.arg 0) (s.arg 2) ∧ s.Fits (s.arg 1) (s.arg 2)

/-- EQX to LEX pass every check (41_compare.md R146). -/
abbrev State.CompareXReady (s : State) : Prop :=
  1 ≤ s.arg 1 ∧ 1 ≤ s.arg 3 ∧ s.Fits (s.arg 0) (s.arg 1) ∧ s.Fits (s.arg 2) (s.arg 3)

/-- AND, OR, XOR, ADD, SUB pass every check: Y coincides with X or is apart from it (42_bitwise.md R160). -/
abbrev State.InPlaceReady (s : State) : Prop :=
  1 ≤ s.arg 2 ∧ s.Fits (s.arg 0) (s.arg 2) ∧ s.Fits (s.arg 1) (s.arg 2) ∧
    (s.arg 1 = s.arg 0 ∨ Apart (s.arg 1) (s.arg 2) (s.arg 0) (s.arg 2)) ∧ s.Clear (s.arg 0) (s.arg 2)

/-- The commands that replace the N-word buffer X by a function of it, and ZERO, pass every check
(42_bitwise.md R163, 45_data.md R240). -/
abbrev State.UnaryReady (s : State) : Prop :=
  1 ≤ s.arg 1 ∧ s.Fits (s.arg 0) (s.arg 1) ∧ s.Clear (s.arg 0) (s.arg 1)

/-- TSTMSB, TSTLSB, CLZ, CTZ pass every check (42_bitwise.md R164). -/
abbrev State.TestReady (s : State) : Prop := 1 ≤ s.arg 1 ∧ s.Fits (s.arg 0) (s.arg 1)

/-- ADDX, SUBX pass every check (43_arith.md R192). -/
abbrev State.InPlaceXReady (s : State) : Prop :=
  1 ≤ s.arg 1 ∧ 1 ≤ s.arg 3 ∧ s.arg 3 ≤ s.arg 1 ∧ s.Fits (s.arg 0) (s.arg 1) ∧ s.Fits (s.arg 2) (s.arg 3) ∧
    (s.arg 2 = s.arg 0 ∧ s.arg 3 = s.arg 1 ∨ Apart (s.arg 2) (s.arg 3) (s.arg 0) (s.arg 1)) ∧
      s.Clear (s.arg 0) (s.arg 1)

/-- SETMUL, ADDMUL pass every check: X coincides with R or is apart from it, YW is apart from R
(43_arith.md R194, R195). -/
abbrev State.MulWordReady (s : State) : Prop :=
  1 ≤ s.arg 2 ∧ s.Fits (s.arg 0) (s.arg 2) ∧ s.Fits (s.arg 1) (s.arg 2) ∧ s.Fits (s.arg 3) 1 ∧
    (s.arg 1 = s.arg 0 ∨ Apart (s.arg 1) (s.arg 2) (s.arg 0) (s.arg 2)) ∧
      Apart (s.arg 3) 1 (s.arg 0) (s.arg 2) ∧ s.Clear (s.arg 0) (s.arg 2)

/-- MUL passes every check (43_arith.md R196). -/
abbrev State.MulReady (s : State) : Prop :=
  1 ≤ s.arg 2 ∧ 1 ≤ s.arg 4 ∧ s.Fits (s.arg 0) (s.arg 2 + s.arg 4) ∧ s.Fits (s.arg 1) (s.arg 2) ∧
    s.Fits (s.arg 3) (s.arg 4) ∧ Apart (s.arg 0) (s.arg 2 + s.arg 4) (s.arg 1) (s.arg 2) ∧
      Apart (s.arg 0) (s.arg 2 + s.arg 4) (s.arg 3) (s.arg 4) ∧ s.Clear (s.arg 0) (s.arg 2 + s.arg 4)

/-- SQR passes every check (43_arith.md R197). -/
abbrev State.SqrReady (s : State) : Prop :=
  1 ≤ s.arg 2 ∧ s.Fits (s.arg 0) (2 * s.arg 2) ∧ s.Fits (s.arg 1) (s.arg 2) ∧
    Apart (s.arg 0) (2 * s.arg 2) (s.arg 1) (s.arg 2) ∧ s.Clear (s.arg 0) (2 * s.arg 2)

/-- MODW passes every check: the divisor is not 0 (44_divide.md R220). -/
abbrev State.ModwReady (s : State) : Prop :=
  1 ≤ s.arg 1 ∧ s.Fits (s.arg 0) (s.arg 1) ∧ s.Fits (s.arg 2) 1 ∧ s.word (s.arg 2) ≠ 0

/-- DIVMOD passes every check: no output or workspace overlaps another buffer, and the top bit of the
divisor is 1 (44_divide.md R221). -/
abbrev State.DivmodReady (s : State) : Prop :=
  let qn := s.arg 1 - s.arg 3 + 1
  let wn := s.arg 1 + s.arg 3 + 2
  1 ≤ s.arg 1 ∧ 1 ≤ s.arg 3 ∧ s.arg 3 ≤ s.arg 1 ∧ s.Fits (s.arg 0) (s.arg 1) ∧ s.Fits (s.arg 2) (s.arg 3) ∧
    s.Fits (s.arg 4) qn ∧ s.Fits (s.arg 5) (s.arg 3) ∧ s.Fits (s.arg 6) wn ∧
      Apart (s.arg 4) qn (s.arg 0) (s.arg 1) ∧ Apart (s.arg 4) qn (s.arg 2) (s.arg 3) ∧
        Apart (s.arg 5) (s.arg 3) (s.arg 0) (s.arg 1) ∧ Apart (s.arg 5) (s.arg 3) (s.arg 2) (s.arg 3) ∧
          Apart (s.arg 6) wn (s.arg 0) (s.arg 1) ∧ Apart (s.arg 6) wn (s.arg 2) (s.arg 3) ∧
            Apart (s.arg 4) qn (s.arg 5) (s.arg 3) ∧ Apart (s.arg 4) qn (s.arg 6) wn ∧
              Apart (s.arg 5) (s.arg 3) (s.arg 6) wn ∧ s.Clear (s.arg 4) qn ∧ s.Clear (s.arg 5) (s.arg 3) ∧
                s.Clear (s.arg 6) wn ∧ 2 ^ (s.arg 3 * s.wordBits - 1) ≤ s.val (s.arg 2) (s.arg 3)

/-- GCD passes every check: R may overlap X and Y, the workspace overlaps nothing (44_divide.md R222). -/
abbrev State.GcdReady (s : State) : Prop :=
  1 ≤ s.arg 3 ∧ s.Fits (s.arg 0) (s.arg 3) ∧ s.Fits (s.arg 1) (s.arg 3) ∧ s.Fits (s.arg 2) (s.arg 3) ∧
    s.Fits (s.arg 4) (2 * s.arg 3) ∧ Apart (s.arg 4) (2 * s.arg 3) (s.arg 0) (s.arg 3) ∧
      Apart (s.arg 4) (2 * s.arg 3) (s.arg 1) (s.arg 3) ∧ Apart (s.arg 4) (2 * s.arg 3) (s.arg 2) (s.arg 3) ∧
        s.Clear (s.arg 0) (s.arg 3) ∧ s.Clear (s.arg 4) (2 * s.arg 3)

/-- COPY passes every check: X coincides with R or is apart from it (45_data.md R241). -/
abbrev State.CopyReady (s : State) : Prop :=
  1 ≤ s.arg 2 ∧ s.Fits (s.arg 0) (s.arg 2) ∧ s.Fits (s.arg 1) (s.arg 2) ∧
    (s.arg 1 = s.arg 0 ∨ Apart (s.arg 1) (s.arg 2) (s.arg 0) (s.arg 2)) ∧ s.Clear (s.arg 0) (s.arg 2)

/-- SETMOD on slot `k` passes every check (46_barrett.md R250, R253). -/
abbrev State.SetmodReady (s : State) (k : Fin 4) : Prop :=
  let n := s.arg 1
  1 ≤ n ∧ s.Fits (s.arg 0) n ∧ s.Fits (s.arg 2) (2 * n + 1) ∧ s.Fits (s.arg 3) (5 * n + 4) ∧
    (s.arg 0 = s.arg 2 ∨ Apart (s.arg 0) n (s.arg 2) (2 * n + 1)) ∧ Apart (s.arg 3) (5 * n + 4) (s.arg 0) n ∧
      Apart (s.arg 3) (5 * n + 4) (s.arg 2) (2 * n + 1) ∧ s.ClearBut k (s.arg 2) (2 * n + 1) ∧
        s.ClearBut k (s.arg 3) (5 * n + 4) ∧ s.radix ^ (n - 1) < s.val (s.arg 0) n ∧
          s.val (s.arg 0) n < s.radix ^ n

/-- A slot command with one input at ARG0, ARG1 (at most `bound` words), its result at `r` and its workspace
of `wn` words at `wk` passes the checks of lengths, range, overlap and protection; the result may overlap
the input (46_barrett.md R256, R261, R262). -/
abbrev State.OneInputReady (s : State) (k : Fin 4) (bound r wk wn : Nat) : Prop :=
  s.SlotReady k ∧ 1 ≤ s.arg 1 ∧ s.arg 1 ≤ bound ∧ s.Fits (s.arg 0) (s.arg 1) ∧ s.Fits r (s.slotN k) ∧
    s.Fits wk wn ∧ Apart wk wn (s.arg 0) (s.arg 1) ∧ Apart wk wn r (s.slotN k) ∧ s.Clear r (s.slotN k) ∧
      s.Clear wk wn

/-- ADDMOD, SUBMOD, MULMOD on slot `k` pass every check (46_barrett.md R258). -/
abbrev State.ModPairReady (s : State) (k : Fin 4) : Prop :=
  let n := s.slotN k
  s.SlotReady k ∧ 1 ≤ s.arg 1 ∧ s.arg 1 ≤ n ∧ 1 ≤ s.arg 3 ∧ s.arg 3 ≤ n ∧ s.Fits (s.arg 0) (s.arg 1) ∧
    s.Fits (s.arg 2) (s.arg 3) ∧ s.Fits (s.arg 4) n ∧ s.Fits (s.arg 5) (4 * n + 2) ∧
      Apart (s.arg 5) (4 * n + 2) (s.arg 0) (s.arg 1) ∧ Apart (s.arg 5) (4 * n + 2) (s.arg 2) (s.arg 3) ∧
        Apart (s.arg 5) (4 * n + 2) (s.arg 4) n ∧ s.Clear (s.arg 4) n ∧ s.Clear (s.arg 5) (4 * n + 2)

/-- SLIDE on slot `k` passes every check (47_powmod.md R294). -/
abbrev State.SlideReady (s : State) (k : Fin 4) : Prop :=
  let n := s.slotN k
  s.SlotReady k ∧ 1 ≤ s.arg 1 ∧ s.arg 1 ≤ n ∧ s.Fits (s.arg 0) (s.arg 1) ∧ s.Fits (s.arg 2) (8 * n) ∧
    s.Fits (s.arg 3) (4 * n + 2) ∧ Apart (s.arg 2) (8 * n) (s.arg 0) (s.arg 1) ∧
      Apart (s.arg 2) (8 * n) (s.arg 3) (4 * n + 2) ∧ Apart (s.arg 3) (4 * n + 2) (s.arg 0) (s.arg 1) ∧
        s.Clear (s.arg 2) (8 * n) ∧ s.Clear (s.arg 3) (4 * n + 2)

/-- POWMOD on slot `k` passes every check (47_powmod.md R295). -/
abbrev State.PowmodReady (s : State) (k : Fin 4) : Prop :=
  let n := s.slotN k
  s.SlotReady k ∧ 1 ≤ s.arg 1 ∧ s.arg 1 ≤ n ∧ 1 ≤ s.arg 3 ∧ s.Fits (s.arg 0) (s.arg 1) ∧
    s.Fits (s.arg 2) (s.arg 3) ∧ s.Fits (s.arg 4) n ∧ s.Fits (s.arg 5) (12 * n + 2) ∧
      Apart (s.arg 5) (12 * n + 2) (s.arg 0) (s.arg 1) ∧ Apart (s.arg 5) (12 * n + 2) (s.arg 2) (s.arg 3) ∧
        Apart (s.arg 5) (12 * n + 2) (s.arg 4) n ∧ s.Clear (s.arg 4) n ∧ s.Clear (s.arg 5) (12 * n + 2)

/-- POWSLD on slot `k` passes every check (47_powmod.md R296). -/
abbrev State.PowsldReady (s : State) (k : Fin 4) : Prop :=
  let n := s.slotN k
  s.SlotReady k ∧ 1 ≤ s.arg 2 ∧ s.Fits (s.arg 0) (8 * n) ∧ s.Fits (s.arg 1) (s.arg 2) ∧ s.Fits (s.arg 3) n ∧
    s.Fits (s.arg 4) (4 * n + 2) ∧ Apart (s.arg 4) (4 * n + 2) (s.arg 0) (8 * n) ∧
      Apart (s.arg 4) (4 * n + 2) (s.arg 1) (s.arg 2) ∧ Apart (s.arg 4) (4 * n + 2) (s.arg 3) n ∧
        s.Clear (s.arg 3) n ∧ s.Clear (s.arg 4) (4 * n + 2)

/-- POW2 on slot `k` passes every check (47_powmod.md R297). -/
abbrev State.Pow2Ready (s : State) (k : Fin 4) : Prop :=
  let n := s.slotN k
  s.SlotReady k ∧ 1 ≤ s.arg 1 ∧ s.Fits (s.arg 0) (s.arg 1) ∧ s.Fits (s.arg 2) n ∧ s.Fits (s.arg 3) (4 * n + 2) ∧
    Apart (s.arg 3) (4 * n + 2) (s.arg 0) (s.arg 1) ∧ Apart (s.arg 3) (4 * n + 2) (s.arg 2) n ∧
      s.Clear (s.arg 2) n ∧ s.Clear (s.arg 3) (4 * n + 2)

/-- RND (`least` 4) or RNDODD (`least` 5) on slot `k` passes every check (48_random.md R323, R324). -/
abbrev State.RndReady (s : State) (k : Fin 4) (least : Nat) : Prop :=
  s.SlotReady k ∧ s.Fits (s.arg 0) (s.slotN k) ∧ s.Clear (s.arg 0) (s.slotN k) ∧ least ≤ s.modulus k

/-- RNDINV on slot `k` passes every check (48_random.md R325). -/
abbrev State.RndinvReady (s : State) (k : Fin 4) : Prop :=
  let n := s.slotN k
  s.SlotReady k ∧ s.Fits (s.arg 0) n ∧ s.Fits (s.arg 1) n ∧ s.Fits (s.arg 2) (6 * n + 6) ∧
    Apart (s.arg 0) n (s.arg 1) n ∧ Apart (s.arg 0) n (s.arg 2) (6 * n + 6) ∧
      Apart (s.arg 1) n (s.arg 2) (6 * n + 6) ∧ s.Clear (s.arg 0) n ∧ s.Clear (s.arg 1) n ∧
        s.Clear (s.arg 2) (6 * n + 6) ∧ s.modulus k % 2 = 1 ∧ 5 ≤ s.modulus k

/-- `t` is `s` with its command ended without error and `r` in RES (10_state.md R33, 60_exceptions.md R343):
nothing but the limb memory and the count of free words may differ besides. -/
def State.Ended (t s : State) (r : Nat) : Prop :=
  r < s.radix ∧
    t = { s with lm := t.lm, free := t.free, res := BitVec.ofNat 64 r, pending := none, done := true,
                 errCode := .noError }

/-- Word `a` is outside the written buffers of an aborted command: of the latched command, when it passes every
check (70_reset_and_hazards.md R382). -/
def State.AbortKeeps (s : State) (a : Nat) : Prop :=
  ∀ p i, s.pending = some p → decode p.cmd = .ok i → (formOf i s).CommonPass s → (formOf i s).value = .noError →
    ¬(formOf i s).Writes a

/-- The word the last write to address `a` among LM accesses carries, if there is one. -/
def lastWrite : List LmAccess → Nat → Option Word
  | [], _ => none
  | .read _ :: xs, a => lastWrite xs a
  | .write b v :: xs, a => (lastWrite xs a).or (if a = b then some v else none)

/-- What word `a` holds after LM accesses made in the order of the list: an address in range holds its last write,
and what it held before when there is none; a write past the end is ignored (20_memory.md R70). -/
def State.wordAfter (s : State) (xs : List LmAccess) (a : Nat) : Nat :=
  if a < s.params.lmWords then ((lastWrite xs a).map fun v => v.toNat % s.radix).getD (s.word a) else s.word a

/-- How many of a list of LM accesses are reads, each of which is answered (20_memory.md R70). -/
def readCount (xs : List LmAccess) : Nat := xs.countP fun x => match x with | .read _ => true | .write _ _ => false

/-- Every word outside buffer `(a, n)` reads in `t` as in `s`. -/
def State.SameOutside (t s : State) (a n : Nat) : Prop := ∀ x, x < a ∨ a + n ≤ x → t.word x = s.word x

/-- Every word outside buffers `(a, n)` and `(b, m)` reads in `t` as in `s`. -/
def State.SameOutsideTwo (t s : State) (a n b m : Nat) : Prop :=
  ∀ x, (x < a ∨ a + n ≤ x) → (x < b ∨ b + m ≤ x) → t.word x = s.word x

end Sys2Proof.Machine
end

