-- ==== Sys2Proof/Certificates/Slice0/Obligations.lean ====
section
/-! DEFINITION. The statements about the unit, from the spec's numbered rules, for the provers. -/

open Sys2Proof Sys2Proof.Machine

/-! ## Encoding and decoding -/

/-- Words written out from 30_encoding.md R105 and R106, at least one per family, and words R101 and R102
make illegal. -/
def Obligations.SpecWordsDecode : Prop :=
  decode 0x00000001#32 = .ok .eq ∧ decode 0x0000000E#32 = .ok .lex ∧ decode 0x0000002C#32 = .ok .lshift ∧
    decode 0x00000040#32 = .ok .add ∧ decode 0x00000061#32 = .ok .divmod ∧ decode 0x00000071#32 = .ok .copy ∧
      decode 0x00000285#32 = .ok (.mulmod 2) ∧ decode 0x00000091#32 = .ok (.powmod 0) ∧
        decode 0x000003A2#32 = .ok (.rndinv 3) ∧ decode 0x00000000#32 = .error .illegalOpcode ∧
          decode 0x00000140#32 = .error .reservedField ∧ decode 0x00000480#32 = .error .reservedField

/-- 30_encoding.md R106: a command's word is `(k << 8) | OPC` with its slot `k` (0 for a command without
one), and that word is its only encoding; with the rule's three examples. -/
def Obligations.DecodeExactlyEncode : Prop :=
  (∀ (c : Reg) (i : Instr), decode c = .ok i ↔ c = encode i) ∧
    (∀ i : Instr, (encode i).toNat = i.ctxField.toNat * 2 ^ 8 + i.opc.toNat) ∧
      (∀ i : Instr, i.opc.toNat < 0x80 → i.ctxField = 0) ∧
        encode .add = 0x00000040#32 ∧ encode (.mulmod 2) = 0x00000285#32 ∧ encode (.powmod 0) = 0x00000091#32

/-- 30_encoding.md R101 and R102: an unlisted OPC is ILLEGAL_OPCODE whatever the other bits; a listed one
with a nonzero reserved field, or a nonzero CTX field and OPC below 0x80, is RESERVED_FIELD; every other word
is the command of its OPC and CTX. -/
def Obligations.DecodeChecksInOrder : Prop :=
  ∀ c : Reg,
    let o := c.toNat % 2 ^ 8
    let listed :=
      (1 ≤ o ∧ o ≤ 6) ∨ (9 ≤ o ∧ o ≤ 0x0E) ∨ (0x20 ≤ o ∧ o ≤ 0x2D) ∨ (0x40 ≤ o ∧ o ≤ 0x4A) ∨ (0x60 ≤ o ∧ o ≤ 0x62) ∨
        (0x70 ≤ o ∧ o ≤ 0x71) ∨ (0x80 ≤ o ∧ o ≤ 0x87) ∨ (0x90 ≤ o ∧ o ≤ 0x93) ∨ (0xA0 ≤ o ∧ o ≤ 0xA2)
    let reservedBad := c.toNat / 2 ^ 10 ≠ 0 ∨ (o < 0x80 ∧ c.toNat / 2 ^ 8 % 4 ≠ 0)
    (¬listed → decode c = .error .illegalOpcode) ∧
      (listed → reservedBad → decode c = .error .reservedField) ∧
        (listed → ¬reservedBad →
          ∃ i, decode c = .ok i ∧ i.opc.toNat = o ∧ i.ctxField.toNat = c.toNat / 2 ^ 8 % 4)

/-! ## The step -/

/-- When the unit is to move and the pending word decodes to `i`, the step is `exec i` on the state whose
turn has been taken; a word that does not decode ends the command with its code and no other effect
(30_encoding.md R101, 60_exceptions.md R344). That the unit moves when no turn is left, and that the step of an idle
unit changes nothing but the list of turns, is the model's choice (DESIGN CHOICE, log 7). -/
def Obligations.StepRunsDecodedCommand : Prop :=
  ∀ (s : State) (ts : List Turn), (s.turns = .unit :: ts ∨ (s.turns = [] ∧ ts = [])) →
    (∀ p i, s.pending = some p → decode p.cmd = .ok i → step s = exec i { s with turns := ts }) ∧
      (∀ p e, s.pending = some p → decode p.cmd = .error e →
        ∃ t, step s = .next t ∧ t.Failed { s with turns := ts } (.ofDecode e)) ∧
      (s.pending = none → s.held = [] → step s = .next { s with turns := ts })

/-- 20_memory.md R83 and R85 as the model orders them (log 7, log 8): a host turn takes effect on the rest,
held accesses of an idle unit go first, and a random word is queued. -/
def Obligations.StepTakesTurnsInOrder : Prop :=
  ∀ (s : State) (ts : List Turn),
    (∀ x xs, s.pending = none → s.held = x :: xs → step s = .next ({ s with held := xs }.lmPerform x)) ∧
      ((s.pending ≠ none ∨ s.held = []) →
        (∀ x, s.turns = .host x :: ts → step s = { s with turns := ts }.hostAccess x) ∧
          (∀ w, s.turns = .random w :: ts → step s = .next { s with turns := ts, rng := s.rng ++ [w] }) ∧
            (s.turns = .powerOn :: ts → step s = .next { s with turns := ts }.powerOn))

/-! ## The host's accesses -/

/-- 10_state.md R44: a CMD write is accepted when idle, with the latching of R55, and ignored with OVR set when
busy. Every word is accepted. A read gives the last accepted word, 0 after reset. -/
def Obligations.CmdWriteAcceptsOrOverruns : Prop :=
  ∀ (s : State) (c : Reg),
    (s.pending = none → s.hostAccess (.regWrite 0x10 32 c) = .next { s with
      cmd := c, pending := some { cmd := c, args := s.args, attempts := 0 }, done := false, err := false,
      errCode := .noError }) ∧
      (s.pending ≠ none → s.hostAccess (.regWrite 0x10 32 c) = .next { s with ovr := true }) ∧
        s.readReg 0x10 = s.cmd ∧ State.reset.readReg 0x10 = 0#32

/-- 10_state.md R32: an idle unit takes a write to ARG `i`, which then reads back, the other seven unchanged;
a busy one ignores it and sets OVR. -/
def Obligations.ArgWriteStoresOrOverruns : Prop :=
  ∀ (s : State) (i : Fin 8) (v : Reg),
    (s.pending = none → ∃ t, s.hostAccess (.regWrite (0x20 + 4 * i.val) 32 v) = .next t ∧
      t = { s with args := t.args } ∧ t.readReg (0x20 + 4 * i.val) = v ∧
        ∀ j : Fin 8, j ≠ i → t.readReg (0x20 + 4 * j.val) = s.readReg (0x20 + 4 * j.val)) ∧
      (s.pending ≠ none → s.hostAccess (.regWrite (0x20 + 4 * i.val) 32 v) = .next { s with ovr := true })

/-- 10_state.md R42 and R43, busy or not: a CTRL write without SRST sets IE to bit 0 and does nothing else; a
STATUS write clears DONE, ERR and OVR where bit 1, 2 and 3 are 1, and leaves everything else. That ERRCODE is among
what it leaves follows R43 against three rows of the test vectors (DESIGN CHOICE, log 22). -/
def Obligations.CtrlAndStatusWrites : Prop :=
  ∀ (s : State) (v : Reg),
    (v.getLsbD 1 = false → s.hostAccess (.regWrite 0x08 32 v) = .next { s with ie := v.getLsbD 0 }) ∧
      ∃ t, s.hostAccess (.regWrite 0x0C 32 v) = .next t ∧ t = { s with done := t.done, err := t.err, ovr := t.ovr } ∧
        (t.done = true ↔ s.done = true ∧ v.getLsbD 1 = false) ∧ (t.err = true ↔ s.err = true ∧ v.getLsbD 2 = false) ∧
          (t.ovr = true ↔ s.ovr = true ∧ v.getLsbD 3 = false)

/-- 10_state.md R40, R41, R42, R43, R46: what ID, LMSIZE, CTRL, STATUS and CTXVALID read as, bit by bit. -/
def Obligations.StatusRegistersReadTheirFields : Prop :=
  ∀ s : State, s.params.Admitted →
    ((s.readReg 0x00).extractLsb' 0 8).toNat = s.params.width.bits ∧ (s.readReg 0x00).extractLsb' 8 24 = 0x570104#24 ∧
      (s.readReg 0x04).toNat = s.params.lmWords ∧
        (s.readReg 0x08).getLsbD 0 = s.ie ∧ (s.readReg 0x08).extractLsb' 1 31 = 0#31 ∧
          (s.readReg 0x0C).getLsbD 0 = s.pending.isSome ∧ (s.readReg 0x0C).getLsbD 1 = s.done ∧
            (s.readReg 0x0C).getLsbD 2 = s.err ∧ (s.readReg 0x0C).getLsbD 3 = s.ovr ∧
              (s.readReg 0x0C).extractLsb' 4 4 = 0#4 ∧ (s.readReg 0x0C).extractLsb' 8 8 = s.errCode.code ∧
                (s.readReg 0x0C).extractLsb' 16 16 = 0#16 ∧
                  (∀ k : Fin 4, (s.readReg 0x1C).getLsbD k.val = (s.slot k).valid) ∧
                    (s.readReg 0x1C).extractLsb' 4 28 = 0#28

/-- 10_state.md R45 and R47: RES_LO and RES_HI give the two halves of RES, the high one 0 when W = 32, and
CTXk_BASE and CTXk_N the fields of slot `k`; a read answers the host and changes nothing else. -/
def Obligations.ResultAndSlotRegistersRead : Prop :=
  ∀ s : State,
    (s.readReg 0x14).toNat = s.resVal % 2 ^ 32 ∧
      (s.params.width = .w64 → (s.readReg 0x18).toNat = s.resVal / 2 ^ 32) ∧
        (s.params.width = .w32 → s.readReg 0x18 = 0#32 ∧ s.resVal = (s.readReg 0x14).toNat) ∧
          (∀ k : Fin 4, s.readReg (0x40 + 8 * k.val) = (s.slot k).base ∧ s.readReg (0x44 + 8 * k.val) = (s.slot k).n) ∧
            ∀ off, off % 4 = 0 →
              s.hostAccess (.regRead off 32) = .next { s with replies := s.replies ++ [.reg off (s.readReg off)] }

/-- 10_state.md R48 and the read-only registers of R31: a write to an offset that is not CTRL, STATUS, CMD or
an ARG register is ignored, and an offset from 0x60 upward reads 0. -/
def Obligations.OtherWritesAreIgnored : Prop :=
  ∀ (s : State) (off : Nat) (v : Reg), off % 4 = 0 →
    ((off < 0x08 ∨ (0x14 ≤ off ∧ off < 0x20) ∨ 0x40 ≤ off) → s.hostAccess (.regWrite off 32 v) = .next s) ∧
      (0x60 ≤ off → s.readReg off = 0#32)

/-- 20_memory.md R71, 93_implementation_defined.md S7: a register access of another width, or at an offset
that is no multiple of 4, is refused. -/
def Obligations.BadRegisterAccessIsRefused : Prop :=
  ∀ (s : State) (off bits : Nat) (v : Reg), (bits ≠ 32 ∨ off % 4 ≠ 0) →
    s.hostAccess (.regRead off bits) = .refused (.registerProtocol off bits) ∧
      s.hostAccess (.regWrite off bits v) = .refused (.registerProtocol off bits)

/-- 20_memory.md R70 and R82, on an idle unit: a read answers `LM[a]`, or 0 past the end; a write sets the
word's low W bits, leaves every other word, and clears VALID of exactly the valid slots whose region holds
`a`, keeping BASE and N; past the end it does nothing. -/
def Obligations.LmPortReadsWritesAndInvalidates : Prop :=
  ∀ (s : State) (a : Nat) (v : Word), s.pending = none →
    (∃ w : Word, s.hostAccess (.lm (.read a)) = .next { s with replies := s.replies ++ [.lm a w] } ∧
      (a < s.params.lmWords → w.toNat = s.word a) ∧ (s.params.lmWords ≤ a → w = 0)) ∧
      (a < s.params.lmWords → ∃ t, s.hostAccess (.lm (.write a v)) = .next t ∧
        t = { s with lm := t.lm, ctx := t.ctx } ∧ t.word a = v.toNat % s.radix ∧ (∀ x, x ≠ a → t.word x = s.word x) ∧
          ∀ k, (t.slot k).base = (s.slot k).base ∧ (t.slot k).n = (s.slot k).n ∧
            ((t.slot k).valid = true ↔
              (s.slot k).valid = true ∧ (a < s.slotBase k ∨ s.slotBase k + 2 * s.slotN k < a))) ∧
        (s.params.lmWords ≤ a → s.hostAccess (.lm (.write a v)) = .next s)

/-- 20_memory.md R83: while a command is pending an LM access takes no effect and is held behind the earlier
ones. -/
def Obligations.LmAccessIsHeldWhileBusy : Prop :=
  ∀ (s : State) (x : LmAccess), s.pending ≠ none → s.hostAccess (.lm x) = .next { s with held := s.held ++ [x] }

/-- 70_reset_and_hazards.md R382, 20_memory.md R83: a soft reset drops the pending command, whose written buffers
alone change, and only if it passes its checks (the state `u`); the held LM accesses then take effect on `u` in their
order: a word in range holds its last held write, every other word is as in `u`, and each held read is answered with
the word the writes before it leave, 0 past the end. Every register and slot ends at its reset value. CTRL is 0, so IE
is 0 whatever bit 0 of the write (DEDUCED, log 9). -/
def Obligations.SoftResetClears : Prop :=
  ∀ (s : State) (v : Reg), v.getLsbD 1 = true →
    ∃ u t : State, s.hostAccess (.regWrite 0x08 32 v) = .next t ∧
      u = { s with pending := none, held := [], lm := u.lm, free := u.free } ∧
        (∀ a, s.AbortKeeps a → u.word a = s.word a) ∧
          t.lm = (u.lmPerformAll s.held).lm ∧ t.replies = (u.lmPerformAll s.held).replies ∧
            (∀ a, t.word a = u.wordAfter s.held a) ∧ t.replies.length = s.replies.length + readCount s.held ∧
              (∀ xs a ys, s.held = xs ++ .read a :: ys → ∃ w : Word,
                t.replies[s.replies.length + readCount xs]? = some (.lm a w) ∧
                  w.toNat = if a < s.params.lmWords then u.wordAfter xs a else 0) ∧
                (∀ j < s.replies.length, t.replies[j]? = s.replies[j]?) ∧
                  t.pending = none ∧ t.held = [] ∧ (∀ off, 0x08 ≤ off → t.readReg off = 0#32) ∧
                    t.params = s.params ∧ t.turns = s.turns ∧ t.rng = s.rng

/-- 70_reset_and_hazards.md R380: after a power-on reset every register but ID and LMSIZE reads 0, nothing is
pending and `irq` is 0, from whatever state. That held accesses are dropped (DESIGN CHOICE, log 17), and that the
memory, whose contents R380 leaves unspecified, lists no word, so that every word is a free value (DESIGN CHOICE,
log 3), are the model's choices. -/
def Obligations.PowerOnResetClears : Prop :=
  (∀ s : State, s.powerOn.pending = none ∧ s.powerOn.held = [] ∧ s.powerOn.lm = [] ∧ s.powerOn.irq = false ∧
    s.powerOn.params = s.params ∧ ∀ off, 0x08 ≤ off → s.powerOn.readReg off = 0#32) ∧
    State.reset.pending = none ∧ State.reset.held = [] ∧ State.reset.lm = [] ∧ State.reset.irq = false ∧
      ∀ off, 0x08 ≤ off → State.reset.readReg off = 0#32

/-! ## Buffers -/

/-- 00_scope.md R12: the value of a buffer, most significant word first. -/
def Obligations.ValIsMostSignificantFirst : Prop :=
  ∀ (s : State) (a n : Nat), s.val a n = ∑ i ∈ Finset.range n, s.word (a + i) * s.radix ^ (n - 1 - i)

/-- 00_scope.md R13: `Store` writes the digits of `v mod B^n`, and no other word. -/
def Obligations.StoreWritesDigits : Prop :=
  ∀ (s : State) (a n v : Nat),
    (∀ i < n, (s.store a n v).word (a + i) = v / s.radix ^ (n - 1 - i) % s.radix) ∧
      (s.store a n v).val a n = v % s.radix ^ n ∧ (s.store a n v).SameOutside s a n ∧
        ∀ b m, a + n ≤ b ∨ b + m ≤ a → (s.store a n v).val b m = s.val b m

/-! ## Errors and completion -/

/-- 60_exceptions.md R345: for every command, the first check that fails, in the order of the rule, decides the
code, and the command ends with it and no other effect (R343, R344). Then, in the terms of the argument registers
(30_encoding.md R105, 20_memory.md R77, R80, R81): for every command with a buffer, its slot valid and its lengths as
they must be, a buffer that does not fit is OUT_OF_RANGE, an overlap its rule does not permit is OVERLAP, and a
written buffer on the region of a valid slot is CTX_CLOBBER. -/
def Obligations.ChecksReportFirstFailure : Prop :=
  (∀ (i : Instr) (s : State),
    let f := formOf i s
    let ends (e : ErrorCode) : Prop := ∃ t, exec i s = .next t ∧ t.Failed s e
    (¬f.SlotPasses s → ends .ctxInvalid) ∧
      (f.SlotPasses s → ¬f.LengthsPass → ends .badLength) ∧
        (f.SlotPasses s → f.LengthsPass → ¬f.RangePasses s → ends .outOfRange) ∧
          (f.SlotPasses s → f.LengthsPass → f.RangePasses s → ¬f.OverlapPasses → ends .overlap) ∧
            (f.SlotPasses s → f.LengthsPass → f.RangePasses s → f.OverlapPasses → ¬f.ProtectionPasses s →
              ends .ctxClobber) ∧
              (f.CommonPass s → f.value ≠ .noError → ends f.value)) ∧
    (∀ s : State,
      let a := s.arg
      let check := s.BufferChecks none
      (1 ≤ a 2 → check [.eq, .ne, .gt, .lt, .ge, .le] [(a 0, a 2), (a 1, a 2)] [] False) ∧
        (1 ≤ a 1 → 1 ≤ a 3 → check [.eqx, .nex, .gtx, .ltx, .gex, .lex] [(a 0, a 1), (a 2, a 3)] [] False) ∧
        (1 ≤ a 2 → check [.and, .or, .xor, .add, .sub] [(a 1, a 2)] [(a 0, a 2)]
          (a 1 ≠ a 0 ∧ Meet (a 1, a 2) (a 0, a 2))) ∧
        (1 ≤ a 1 → check [.not, .setmsb, .setlsb, .clrmsb, .clrlsb, .lshift, .rshift, .dbl, .halve, .neg, .zero] []
          [(a 0, a 1)] False) ∧
        (1 ≤ a 1 → check [.tstmsb, .tstlsb, .clz, .ctz] [(a 0, a 1)] [] False) ∧
        (1 ≤ a 3 → a 3 ≤ a 1 → check [.addx, .subx] [(a 2, a 3)] [(a 0, a 1)]
          (¬(a 2 = a 0 ∧ a 3 = a 1) ∧ Meet (a 2, a 3) (a 0, a 1))) ∧
        (1 ≤ a 2 → check [.setmul, .addmul] [(a 1, a 2), (a 3, 1)] [(a 0, a 2)]
          (a 1 ≠ a 0 ∧ Meet (a 1, a 2) (a 0, a 2) ∨ Meet (a 3, 1) (a 0, a 2))) ∧
        (1 ≤ a 2 → 1 ≤ a 4 → check [.mul] [(a 1, a 2), (a 3, a 4)] [(a 0, a 2 + a 4)]
          (Meet (a 0, a 2 + a 4) (a 1, a 2) ∨ Meet (a 0, a 2 + a 4) (a 3, a 4))) ∧
        (1 ≤ a 2 → check [.sqr] [(a 1, a 2)] [(a 0, 2 * a 2)] (Meet (a 0, 2 * a 2) (a 1, a 2))) ∧
        (1 ≤ a 1 → check [.modw] [(a 0, a 1), (a 2, 1)] [] False) ∧
        (1 ≤ a 3 → a 3 ≤ a 1 →
          let x := (a 0, a 1)
          let y := (a 2, a 3)
          let q := (a 4, a 1 - a 3 + 1)
          let r := (a 5, a 3)
          let wk := (a 6, a 1 + a 3 + 2)
          check [.divmod] [x, y] [q, r, wk] (Meet q x ∨ Meet q y ∨ Meet r x ∨ Meet r y ∨ Meet wk x ∨ Meet wk y ∨
            Meet q r ∨ Meet q wk ∨ Meet r wk)) ∧
        (1 ≤ a 3 →
          let r := (a 0, a 3)
          let wk := (a 4, 2 * a 3)
          check [.gcd] [(a 1, a 3), (a 2, a 3)] [r, wk] (Meet wk r ∨ Meet wk (a 1, a 3) ∨ Meet wk (a 2, a 3))) ∧
        (1 ≤ a 2 → check [.copy] [(a 1, a 2)] [(a 0, a 2)] (a 1 ≠ a 0 ∧ Meet (a 1, a 2) (a 0, a 2))) ∧
        ∀ k, 1 ≤ a 1 →
          let m := (a 0, a 1)
          let base := (a 2, 2 * a 1 + 1)
          let wk := (a 3, 5 * a 1 + 4)
          s.BufferChecks (some k) [.setmod k] [m] [base, wk]
            (a 0 ≠ a 2 ∧ Meet m base ∨ Meet wk m ∨ Meet wk base)) ∧
      ∀ (s : State) (k : Fin 4), (s.slot k).valid = true →
        let a := s.arg
        let n := s.slotN k
        let check := s.BufferChecks none
        let x := (a 0, a 1)
        (1 ≤ a 1 → a 1 ≤ 2 * n →
          let wk := (a 3, 2 * n + 2)
          check [.reduce k] [x] [(a 2, n), wk] (Meet wk x ∨ Meet wk (a 2, n))) ∧
          (1 ≤ a 1 → a 1 ≤ n → 1 ≤ a 3 → a 3 ≤ n →
            let wk := (a 5, 4 * n + 2)
            check [.addmod k, .submod k, .mulmod k] [x, (a 2, a 3)] [(a 4, n), wk]
              (Meet wk x ∨ Meet wk (a 2, a 3) ∨ Meet wk (a 4, n))) ∧
          (1 ≤ a 1 → a 1 ≤ n →
            let wk := (a 3, 4 * n + 2)
            let wi := (a 3, 6 * n + 6)
            let t := (a 2, 8 * n)
            check [.sqrmod k] [x] [(a 2, n), wk] (Meet wk x ∨ Meet wk (a 2, n)) ∧
              check [.invmod k] [x] [(a 2, n), wi] (Meet wi x ∨ Meet wi (a 2, n)) ∧
                check [.slide k] [x] [t, wk] (Meet t x ∨ Meet t wk ∨ Meet wk x)) ∧
          (1 ≤ a 1 → a 1 ≤ n → 1 ≤ a 3 →
            let wk := (a 5, 12 * n + 2)
            check [.powmod k] [x, (a 2, a 3)] [(a 4, n), wk] (Meet wk x ∨ Meet wk (a 2, a 3) ∨ Meet wk (a 4, n))) ∧
          (1 ≤ a 2 →
            let t := (a 0, 8 * n)
            let wk := (a 4, 4 * n + 2)
            check [.powsld k] [t, (a 1, a 2)] [(a 3, n), wk] (Meet wk t ∨ Meet wk (a 1, a 2) ∨ Meet wk (a 3, n))) ∧
          (1 ≤ a 1 →
            let wk := (a 3, 4 * n + 2)
            check [.pow2 k] [x] [(a 2, n), wk] (Meet wk x ∨ Meet wk (a 2, n))) ∧
          check [.rnd k, .rndodd k] [] [(a 0, n)] False ∧
          (let r := (a 0, n)
           let ri := (a 1, n)
           let wk := (a 2, 6 * n + 6)
           check [.rndinv k] [] [r, ri, wk] (Meet r ri ∨ Meet r wk ∨ Meet ri wk))

/-- 46_barrett.md R263 (a): on an empty slot, every slot command but SETMOD and CTXCLR ends with CTX_INVALID,
whatever its operands. -/
def Obligations.EmptySlotIsCtxInvalid : Prop :=
  ∀ (k : Fin 4) (s : State), (s.slot k).valid = false →
    ∀ i ∈ [Instr.reduce k, .addmod k, .submod k, .mulmod k, .sqrmod k, .invmod k, .slide k, .powmod k, .powsld k,
        .pow2 k, .rnd k, .rndodd k, .rndinv k], ∃ t, exec i s = .next t ∧ t.Failed s .ctxInvalid

/-- 60_exceptions.md R341, BAD_LENGTH: a length of 0, or above its bound, ends the command, for every length operand
of every command: `YN > XN` for ADDX, SUBX and DIVMOD; on a valid slot of `N` words, `XN > 2N` for REDUCE, `XN > N` or
`YN > N` for the other modular commands (46_barrett.md R264, 47_powmod.md R294 to R297). -/
def Obligations.BadLengthsEndCommands : Prop :=
  ∀ (s : State),
    let bad (is : List Instr) : Prop := ∀ i ∈ is, ∃ t, exec i s = .next t ∧ t.Failed s .badLength
    (s.arg 2 = 0 → bad [.eq, .ne, .gt, .lt, .ge, .le, .and, .or, .xor, .add, .sub, .setmul, .addmul, .mul, .sqr,
      .copy]) ∧
      (s.arg 1 = 0 → bad [.eqx, .nex, .gtx, .ltx, .gex, .lex, .not, .tstmsb, .tstlsb, .setmsb, .setlsb, .clrmsb,
        .clrlsb, .clz, .ctz, .lshift, .rshift, .addx, .subx, .dbl, .halve, .neg, .modw, .divmod, .zero, .setmod 0,
        .setmod 1, .setmod 2, .setmod 3]) ∧
        (s.arg 3 = 0 → bad [.eqx, .nex, .gtx, .ltx, .gex, .lex, .addx, .subx, .divmod, .gcd]) ∧
          (s.arg 1 < s.arg 3 → bad [.addx, .subx, .divmod]) ∧ (s.arg 4 = 0 → bad [.mul]) ∧
            ∀ k, (s.slot k).valid = true →
              let n := s.slotN k
              (s.arg 1 = 0 → bad [.reduce k, .addmod k, .submod k, .mulmod k, .sqrmod k, .invmod k, .slide k,
                .powmod k, .pow2 k]) ∧
                (2 * n < s.arg 1 → bad [.reduce k]) ∧
                  (n < s.arg 1 → bad [.addmod k, .submod k, .mulmod k, .sqrmod k, .invmod k, .slide k, .powmod k]) ∧
                    (s.arg 3 = 0 → bad [.addmod k, .submod k, .mulmod k, .powmod k]) ∧
                      (n < s.arg 3 → bad [.addmod k, .submod k, .mulmod k]) ∧ (s.arg 2 = 0 → bad [.powsld k])

/-- 60_exceptions.md R345 step 8: the value checks of MODW, DIVMOD, SETMOD, INVMOD, RND, RNDODD and RNDINV, once
the common checks pass. -/
def Obligations.ValueChecksEndCommands : Prop :=
  ∀ (s : State) (k : Fin 4),
    let ends (i : Instr) (e : ErrorCode) : Prop :=
      (formOf i s).CommonPass s → ∃ t, exec i s = .next t ∧ t.Failed s e
    (s.word (s.arg 2) = 0 → ends .modw .divByZero) ∧
      (s.val (s.arg 2) (s.arg 3) < 2 ^ (s.arg 3 * s.wordBits - 1) → ends .divmod .notNormalized) ∧
        (¬(s.radix ^ (s.arg 1 - 1) < s.val (s.arg 0) (s.arg 1) ∧ s.val (s.arg 0) (s.arg 1) < s.radix ^ s.arg 1) →
          ends (.setmod k) .badModulus) ∧
          (s.modulus k % 2 = 0 → ends (.invmod k) .evenModulus ∧ ends (.rndinv k) .evenModulus) ∧
            (s.modulus k < 4 → ends (.rnd k) .rangeEmpty) ∧ (s.modulus k < 5 → ends (.rndodd k) .rangeEmpty) ∧
              (s.modulus k % 2 = 1 → s.modulus k < 5 → ends (.rndinv k) .rangeEmpty)

/-- 60_exceptions.md R350: a command that ends raises DONE, so `irq` is IE; accepting the next command, or
writing 1 to STATUS.DONE, or clearing IE, drops it; a pending sampling command leaves it as it was. -/
def Obligations.CompletionRaisesInterrupt : Prop :=
  (∀ (i : Instr) (s t : State), exec i s = .next t → s.pending ≠ none →
    (t.pending = none → t.done = true ∧ t.irq = s.ie) ∧ (t.pending ≠ none → t.irq = s.irq)) ∧
    ∀ (s : State) (c : Reg), (s.pending = none → ∃ t, s.hostAccess (.regWrite 0x10 32 c) = .next t ∧ t.irq = false) ∧
      (∃ t, s.hostAccess (.regWrite 0x0C 32 0x00000006#32) = .next t ∧ t.irq = false) ∧
        (∃ t, s.hostAccess (.regWrite 0x08 32 0x00000000#32) = .next t ∧ t.irq = false ∧ t.done = s.done) ∧
          ∃ t, s.hostAccess (.regWrite 0x08 32 0x00000001#32) = .next t ∧ t.irq = s.done

/-! ## Results, family by family -/

/-- 41_compare.md R140 to R145 and R152: the equal-length compares answer in RES and write nothing else. -/
def Obligations.EqualLengthCompares : Prop :=
  ∀ s : State, s.CompareReady →
    let x := s.val (s.arg 0) (s.arg 2)
    let y := s.val (s.arg 1) (s.arg 2)
    (∃ t, exec .eq s = .next t ∧ t.Ended s (if x = y then 1 else 0) ∧ t.lm = s.lm) ∧
      (∃ t, exec .ne s = .next t ∧ t.Ended s (if x ≠ y then 1 else 0) ∧ t.lm = s.lm) ∧
        (∃ t, exec .gt s = .next t ∧ t.Ended s (if x > y then 1 else 0) ∧ t.lm = s.lm) ∧
          (∃ t, exec .lt s = .next t ∧ t.Ended s (if x < y then 1 else 0) ∧ t.lm = s.lm) ∧
            (∃ t, exec .ge s = .next t ∧ t.Ended s (if x ≥ y then 1 else 0) ∧ t.lm = s.lm) ∧
              ∃ t, exec .le s = .next t ∧ t.Ended s (if x ≤ y then 1 else 0) ∧ t.lm = s.lm

/-- 41_compare.md R146 to R151 and R152: the size-aware compares. -/
def Obligations.SizeAwareCompares : Prop :=
  ∀ s : State, s.CompareXReady →
    let x := s.val (s.arg 0) (s.arg 1)
    let y := s.val (s.arg 2) (s.arg 3)
    (∃ t, exec .eqx s = .next t ∧ t.Ended s (if x = y then 1 else 0) ∧ t.lm = s.lm) ∧
      (∃ t, exec .nex s = .next t ∧ t.Ended s (if x ≠ y then 1 else 0) ∧ t.lm = s.lm) ∧
        (∃ t, exec .gtx s = .next t ∧ t.Ended s (if x > y then 1 else 0) ∧ t.lm = s.lm) ∧
          (∃ t, exec .ltx s = .next t ∧ t.Ended s (if x < y then 1 else 0) ∧ t.lm = s.lm) ∧
            (∃ t, exec .gex s = .next t ∧ t.Ended s (if x ≥ y then 1 else 0) ∧ t.lm = s.lm) ∧
              ∃ t, exec .lex s = .next t ∧ t.Ended s (if x ≤ y then 1 else 0) ∧ t.lm = s.lm

/-- 42_bitwise.md R160 to R162. -/
def Obligations.LogicalResults : Prop :=
  ∀ s : State, s.InPlaceReady →
    let x := s.val (s.arg 0) (s.arg 2)
    let y := s.val (s.arg 1) (s.arg 2)
    (∃ t, exec .and s = .next t ∧ t.Ended s 0 ∧ t.val (s.arg 0) (s.arg 2) = x &&& y ∧
      t.SameOutside s (s.arg 0) (s.arg 2)) ∧
      (∃ t, exec .or s = .next t ∧ t.Ended s 0 ∧ t.val (s.arg 0) (s.arg 2) = x ||| y ∧
        t.SameOutside s (s.arg 0) (s.arg 2)) ∧
        ∃ t, exec .xor s = .next t ∧ t.Ended s 0 ∧ t.val (s.arg 0) (s.arg 2) = x ^^^ y ∧
          t.SameOutside s (s.arg 0) (s.arg 2)

/-- 42_bitwise.md R163 and R166 to R169. -/
def Obligations.NotSetAndClearResults : Prop :=
  ∀ s : State, s.UnaryReady →
    let n := s.arg 1
    let x := s.val (s.arg 0) n
    let top := 2 ^ (n * s.wordBits - 1)
    (∃ t, exec .not s = .next t ∧ t.Ended s 0 ∧ t.val (s.arg 0) n = s.radix ^ n - 1 - x ∧ t.SameOutside s (s.arg 0) n) ∧
      (∃ t, exec .setmsb s = .next t ∧ t.Ended s 0 ∧ t.val (s.arg 0) n = x ||| top ∧ t.SameOutside s (s.arg 0) n) ∧
        (∃ t, exec .setlsb s = .next t ∧ t.Ended s 0 ∧ t.val (s.arg 0) n = x ||| 1 ∧ t.SameOutside s (s.arg 0) n) ∧
          (∃ t, exec .clrmsb s = .next t ∧ t.Ended s 0 ∧ t.val (s.arg 0) n = x &&& (s.radix ^ n - 1 - top) ∧
            t.SameOutside s (s.arg 0) n) ∧
            ∃ t, exec .clrlsb s = .next t ∧ t.Ended s 0 ∧ t.val (s.arg 0) n = x - x % 2 ∧ t.SameOutside s (s.arg 0) n

/-- 42_bitwise.md R164, R165, R170 and R171: bit `W-1` of the first word, bit 0 of the last, the count of leading
zero bits `N*W - bitlen(x)`, and the largest power of two that divides `x`, `N*W` for 0. No word is written. -/
def Obligations.BitTestsAndCounts : Prop :=
  ∀ s : State, s.params.Admitted → s.TestReady →
    let n := s.arg 1
    let x := s.val (s.arg 0) n
    (∃ t, exec .tstmsb s = .next t ∧ t.Ended s (x / 2 ^ (n * s.wordBits - 1) % 2) ∧ t.lm = s.lm ∧
      t.resVal = s.word (s.arg 0) / 2 ^ (s.wordBits - 1) % 2) ∧
      (∃ t, exec .tstlsb s = .next t ∧ t.Ended s (x % 2) ∧ t.lm = s.lm ∧ t.resVal = s.word (s.arg 0 + n - 1) % 2) ∧
        (∃ t, exec .clz s = .next t ∧ t.Ended s (n * s.wordBits - x.size) ∧ t.lm = s.lm) ∧
          ∃ t c, exec .ctz s = .next t ∧ t.Ended s c ∧ t.lm = s.lm ∧ (x = 0 → c = n * s.wordBits) ∧
            (x ≠ 0 → 2 ^ c ∣ x ∧ ¬2 ^ (c + 1) ∣ x)

/-- 42_bitwise.md R172 and R173. -/
def Obligations.ShiftResults : Prop :=
  ∀ s : State, s.UnaryReady →
    let n := s.arg 1
    let c := s.arg 2
    let x := s.val (s.arg 0) n
    (∃ t, exec .lshift s = .next t ∧ t.Ended s 0 ∧
      t.val (s.arg 0) n = (if n * s.wordBits ≤ c then 0 else x * 2 ^ c % s.radix ^ n) ∧ t.SameOutside s (s.arg 0) n) ∧
      ∃ t, exec .rshift s = .next t ∧ t.Ended s 0 ∧
        t.val (s.arg 0) n = (if n * s.wordBits ≤ c then 0 else x / 2 ^ c) ∧ t.SameOutside s (s.arg 0) n

/-- 43_arith.md R190 and R191. -/
def Obligations.AddSubResults : Prop :=
  ∀ s : State, s.InPlaceReady →
    let n := s.arg 2
    let x := s.val (s.arg 0) n
    let y := s.val (s.arg 1) n
    (∃ t, exec .add s = .next t ∧ t.Ended s ((x + y) / s.radix ^ n) ∧ t.val (s.arg 0) n = (x + y) % s.radix ^ n ∧
      t.SameOutside s (s.arg 0) n) ∧
      ∃ t, exec .sub s = .next t ∧ t.Ended s (if x < y then 1 else 0) ∧
        (t.val (s.arg 0) n : Int) = ((x : Int) - y) % (s.radix ^ n : Nat) ∧ t.SameOutside s (s.arg 0) n

/-- 43_arith.md R192 and R193. -/
def Obligations.AddxSubxResults : Prop :=
  ∀ s : State, s.InPlaceXReady →
    let n := s.arg 1
    let x := s.val (s.arg 0) n
    let y := s.val (s.arg 2) (s.arg 3)
    (∃ t, exec .addx s = .next t ∧ t.Ended s ((x + y) / s.radix ^ n) ∧ t.val (s.arg 0) n = (x + y) % s.radix ^ n ∧
      t.SameOutside s (s.arg 0) n) ∧
      ∃ t, exec .subx s = .next t ∧ t.Ended s (if x < y then 1 else 0) ∧
        (t.val (s.arg 0) n : Int) = ((x : Int) - y) % (s.radix ^ n : Nat) ∧ t.SameOutside s (s.arg 0) n

/-- 43_arith.md R194 and R195: the product, and the product with accumulation, by one word; the carry word fits
RES (R206). -/
def Obligations.MultiplyByWordResults : Prop :=
  ∀ s : State, s.MulWordReady →
    let n := s.arg 2
    let r := s.val (s.arg 0) n
    let x := s.val (s.arg 1) n
    let y := s.word (s.arg 3)
    (∃ t, exec .setmul s = .next t ∧ t.Ended s (x * y / s.radix ^ n) ∧ t.val (s.arg 0) n = x * y % s.radix ^ n ∧
      t.SameOutside s (s.arg 0) n) ∧
      ∃ t, exec .addmul s = .next t ∧ t.Ended s ((r + x * y) / s.radix ^ n) ∧
        t.val (s.arg 0) n = (r + x * y) % s.radix ^ n ∧ t.SameOutside s (s.arg 0) n

/-- 43_arith.md R196 and R197: the exact product and square. -/
def Obligations.MulSqrResults : Prop :=
  ∀ s : State,
    (s.MulReady → ∃ t, exec .mul s = .next t ∧ t.Ended s 0 ∧
      t.val (s.arg 0) (s.arg 2 + s.arg 4) = s.val (s.arg 1) (s.arg 2) * s.val (s.arg 3) (s.arg 4) ∧
        t.SameOutside s (s.arg 0) (s.arg 2 + s.arg 4)) ∧
      (s.SqrReady → ∃ t, exec .sqr s = .next t ∧ t.Ended s 0 ∧
        t.val (s.arg 0) (2 * s.arg 2) = s.val (s.arg 1) (s.arg 2) * s.val (s.arg 1) (s.arg 2) ∧
          t.SameOutside s (s.arg 0) (2 * s.arg 2))

/-- 43_arith.md R198, R199 and R200. -/
def Obligations.DoubleHalveNegateResults : Prop :=
  ∀ s : State, s.UnaryReady →
    let n := s.arg 1
    let x := s.val (s.arg 0) n
    (∃ t, exec .dbl s = .next t ∧ t.Ended s (x / 2 ^ (n * s.wordBits - 1)) ∧ t.val (s.arg 0) n = 2 * x % s.radix ^ n ∧
      t.SameOutside s (s.arg 0) n) ∧
      (∃ t, exec .halve s = .next t ∧ t.Ended s (x % 2) ∧ t.val (s.arg 0) n = x / 2 ∧ t.SameOutside s (s.arg 0) n) ∧
        ∃ t, exec .neg s = .next t ∧ t.Ended s 0 ∧ t.val (s.arg 0) n = (s.radix ^ n - x) % s.radix ^ n ∧
          t.SameOutside s (s.arg 0) n

/-- 44_divide.md R220 and R221: the remainder by a word; quotient and remainder, exact in their buffers. -/
def Obligations.DivisionResults : Prop :=
  ∀ s : State,
    (s.ModwReady → ∃ t, exec .modw s = .next t ∧
      t.Ended s (s.val (s.arg 0) (s.arg 1) % s.word (s.arg 2)) ∧ t.lm = s.lm) ∧
      (s.DivmodReady →
        let x := s.val (s.arg 0) (s.arg 1)
        let y := s.val (s.arg 2) (s.arg 3)
        ∃ t, exec .divmod s = .next t ∧ t.Ended s 0 ∧ t.val (s.arg 4) (s.arg 1 - s.arg 3 + 1) = x / y ∧
          t.val (s.arg 5) (s.arg 3) = x % y ∧
            ∀ a, (a < s.arg 4 ∨ s.arg 4 + (s.arg 1 - s.arg 3 + 1) ≤ a) → (a < s.arg 5 ∨ s.arg 5 + s.arg 3 ≤ a) →
              (a < s.arg 6 ∨ s.arg 6 + (s.arg 1 + s.arg 3 + 2) ≤ a) → t.word a = s.word a)

/-- 44_divide.md R222, with `gcd(x, 0) = x` and `gcd(0, 0) = 0` as 00_scope.md R14 has it. -/
def Obligations.GcdResult : Prop :=
  ∀ s : State, s.GcdReady →
    ∃ t, exec .gcd s = .next t ∧ t.Ended s 0 ∧
      t.val (s.arg 0) (s.arg 3) = Nat.gcd (s.val (s.arg 1) (s.arg 3)) (s.val (s.arg 2) (s.arg 3)) ∧
        t.SameOutsideTwo s (s.arg 0) (s.arg 3) (s.arg 4) (2 * s.arg 3)

/-- 45_data.md R240, R241 and R242: wipe and copy. -/
def Obligations.ZeroCopyResults : Prop :=
  ∀ s : State,
    (s.UnaryReady → ∃ t, exec .zero s = .next t ∧ t.Ended s 0 ∧ (∀ i < s.arg 1, t.word (s.arg 0 + i) = 0) ∧
      t.SameOutside s (s.arg 0) (s.arg 1)) ∧
      (s.CopyReady → ∃ t, exec .copy s = .next t ∧ t.Ended s 0 ∧
        (∀ i < s.arg 2, t.word (s.arg 0 + i) = s.word (s.arg 1 + i)) ∧ t.SameOutside s (s.arg 0) (s.arg 2))

/-- 46_barrett.md R250, R252 and R254: SETMOD stores the modulus and its coefficient, sets slot `k`, and changes
no other slot and no word outside the region and the workspace. -/
def Obligations.SetmodEstablishesSlot : Prop :=
  ∀ (s : State) (k : Fin 4), s.SetmodReady k →
    let n := s.arg 1
    let m := s.val (s.arg 0) n
    ∃ t, exec (.setmod k) s = .next t ∧ { t with ctx := s.ctx }.Ended s 0 ∧ (t.slot k).valid = true ∧
      t.slotBase k = s.arg 2 ∧ t.slotN k = n ∧ t.modulus k = m ∧ t.coefficient k = s.radix ^ (2 * n) / m ∧
        (∀ j, j ≠ k → t.slot j = s.slot j) ∧ t.SameOutsideTwo s (s.arg 2) (2 * n + 1) (s.arg 3) (5 * n + 4)

/-- 46_barrett.md R255: CTXCLR empties slot `k`, whatever it was, and writes no word. -/
def Obligations.CtxclrEmptiesSlot : Prop :=
  ∀ (s : State) (k : Fin 4), ∃ t, exec (.ctxclr k) s = .next t ∧ { t with ctx := s.ctx }.Ended s 0 ∧
    (t.slot k).valid = false ∧ t.slotBase k = 0 ∧ t.slotN k = 0 ∧ (∀ j, j ≠ k → t.slot j = s.slot j) ∧ t.lm = s.lm

/-- 46_barrett.md R256 and R261: the least residue of X, and of its square. -/
def Obligations.ReduceSquareResults : Prop :=
  ∀ (s : State) (k : Fin 4),
    let n := s.slotN k
    let x := s.val (s.arg 0) (s.arg 1)
    (s.OneInputReady k (2 * n) (s.arg 2) (s.arg 3) (2 * n + 2) →
      ∃ t, exec (.reduce k) s = .next t ∧ t.Ended s 0 ∧ t.val (s.arg 2) n = x % s.modulus k ∧
        t.SameOutsideTwo s (s.arg 2) n (s.arg 3) (2 * n + 2)) ∧
      (s.OneInputReady k n (s.arg 2) (s.arg 3) (4 * n + 2) →
        ∃ t, exec (.sqrmod k) s = .next t ∧ t.Ended s 0 ∧ t.val (s.arg 2) n = x * x % s.modulus k ∧
          t.SameOutsideTwo s (s.arg 2) n (s.arg 3) (4 * n + 2))

/-- 46_barrett.md R258, R259 and R260: exact residues whatever the size of the operands (R264). -/
def Obligations.ModularPairResults : Prop :=
  ∀ (s : State) (k : Fin 4), s.ModPairReady k →
    let n := s.slotN k
    let m := s.modulus k
    let x := s.val (s.arg 0) (s.arg 1)
    let y := s.val (s.arg 2) (s.arg 3)
    (∃ t, exec (.addmod k) s = .next t ∧ t.Ended s 0 ∧ t.val (s.arg 4) n = (x + y) % m ∧
      t.SameOutsideTwo s (s.arg 4) n (s.arg 5) (4 * n + 2)) ∧
      (∃ t, exec (.submod k) s = .next t ∧ t.Ended s 0 ∧ (t.val (s.arg 4) n : Int) = ((x : Int) - y) % (m : Int) ∧
        t.SameOutsideTwo s (s.arg 4) n (s.arg 5) (4 * n + 2)) ∧
        ∃ t, exec (.mulmod k) s = .next t ∧ t.Ended s 0 ∧ t.val (s.arg 4) n = x * y % m ∧
          t.SameOutsideTwo s (s.arg 4) n (s.arg 5) (4 * n + 2)

/-- 46_barrett.md R262, for an odd modulus: an invertible value leaves its inverse below `m` in R and 1 in RES; a
value that is not leaves R and writes 0 to RES. -/
def Obligations.InvmodResult : Prop :=
  ∀ (s : State) (k : Fin 4),
    let n := s.slotN k
    let m := s.modulus k
    let x := s.val (s.arg 0) (s.arg 1)
    s.OneInputReady k n (s.arg 2) (s.arg 3) (6 * n + 6) → m % 2 = 1 →
      (Nat.gcd (x % m) m = 1 → ∃ t, exec (.invmod k) s = .next t ∧ t.Ended s 1 ∧ t.val (s.arg 2) n < m ∧
        x % m * t.val (s.arg 2) n % m = 1 ∧ t.SameOutsideTwo s (s.arg 2) n (s.arg 3) (6 * n + 6)) ∧
        (Nat.gcd (x % m) m ≠ 1 → ∃ t, exec (.invmod k) s = .next t ∧ t.Ended s 0 ∧
          t.SameOutside s (s.arg 3) (6 * n + 6))

/-- 47_powmod.md R294: SLIDE stores the odd powers of the base. -/
def Obligations.SlideBuildsOddPowers : Prop :=
  ∀ (s : State) (k : Fin 4), s.SlideReady k →
    let n := s.slotN k
    let x := s.val (s.arg 0) (s.arg 1)
    ∃ t, exec (.slide k) s = .next t ∧ t.Ended s 0 ∧
      (∀ i < 8, t.val (s.arg 2 + i * n) n = x ^ (2 * i + 1) % s.modulus k) ∧
        t.SameOutsideTwo s (s.arg 2) (8 * n) (s.arg 3) (4 * n + 2)

/-- 47_powmod.md R295 and R293: POWMOD leaves `x^p mod m` in R, `p = 0` and `x = 0` included. -/
def Obligations.PowmodResult : Prop :=
  ∀ (s : State) (k : Fin 4), s.PowmodReady k →
    let n := s.slotN k
    let x := s.val (s.arg 0) (s.arg 1)
    let p := s.val (s.arg 2) (s.arg 3)
    ∃ t, exec (.powmod k) s = .next t ∧ t.Ended s 0 ∧ t.val (s.arg 4) n = x ^ p % s.modulus k ∧
      t.SameOutsideTwo s (s.arg 4) n (s.arg 5) (12 * n + 2)

/-- 47_powmod.md R296: POWSLD leaves the window decode of its table in R, which is `x^p mod m` when the table
holds the odd powers of `x`. -/
def Obligations.PowsldResult : Prop :=
  ∀ (s : State) (k : Fin 4), s.PowsldReady k →
    let n := s.slotN k
    let p := s.val (s.arg 1) (s.arg 2)
    ∃ t, exec (.powsld k) s = .next t ∧ t.Ended s 0 ∧
      t.val (s.arg 3) n = windowDecode (s.modulus k) (fun i => s.val (s.arg 0 + i * n) n) p ∧
        (∀ x, (∀ i < 8, s.val (s.arg 0 + i * n) n = x ^ (2 * i + 1) % s.modulus k) →
          t.val (s.arg 3) n = x ^ p % s.modulus k) ∧
          t.SameOutsideTwo s (s.arg 3) n (s.arg 4) (4 * n + 2)

/-- 47_powmod.md R297: POW2 leaves `2^p mod m` in R. -/
def Obligations.Pow2Result : Prop :=
  ∀ (s : State) (k : Fin 4), s.Pow2Ready k →
    let n := s.slotN k
    let p := s.val (s.arg 0) (s.arg 1)
    ∃ t, exec (.pow2 k) s = .next t ∧ t.Ended s 0 ∧ t.val (s.arg 2) n = 2 ^ p % s.modulus k ∧
      t.SameOutsideTwo s (s.arg 2) n (s.arg 3) (4 * n + 2)

/-- 47_powmod.md R290: for `v = o * 2^t` with `o` odd, the three tables hold `bitlen(o)`, `(o - 1) / 2` and `t`. -/
def Obligations.WindowTables : Prop :=
  ∀ o t : Nat, o % 2 = 1 → o * 2 ^ t ≤ 15 →
    preSq (o * 2 ^ t) = o.size ∧ mulG (o * 2 ^ t) = (o - 1) / 2 ∧ postSq (o * 2 ^ t) = t

/-- 47_powmod.md R293: over a table of the odd powers of `x`, the window decode computes `x^p mod m` for every
exponent. -/
def Obligations.WindowDecodeComputesPower : Prop :=
  ∀ (m x p : Nat) (tab : Nat → Nat), 1 < m → (∀ i < 8, tab i = x ^ (2 * i + 1) % m) →
    windowDecode m tab p = x ^ p % m

/-- 48_random.md R321: the candidate of an attempt, its first draw masked to the modulus's bit length, is below
`2^bitlen(m)`. -/
def Obligations.CandidateIsMaskedDraws : Prop :=
  ∀ (s : State) (k : Fin 4), s.SlotReady k → s.slotN k ≤ s.rng.length →
    let n := s.slotN k
    let draw (i : Nat) : Nat := (s.rng.getD i 0).toNat % s.radix
    let mask := (s.radix - 1) / 2 ^ (s.wordBits - (s.word (s.slotBase k)).size)
    s.nextCandidate k =
        ∑ i ∈ Finset.range n, (if i = 0 then draw i &&& mask else draw i) * s.radix ^ (n - 1 - i) ∧
      s.nextCandidate k < 2 ^ (s.modulus k).size

/-- 48_random.md R322 to R324: one step of RND or RNDODD accepts a candidate in `[2, m-2]`, which it stores, or
rejects it and leaves everything but the draws and the attempt count; with too few words ready it waits. -/
def Obligations.RndRndoddAttempts : Prop :=
  ∀ (s : State) (k : Fin 4),
    let n := s.slotN k
    let m := s.modulus k
    let attempt (i : Instr) (c : Nat) : Prop :=
      (s.rng.length < n → exec i s = .next s) ∧
        (n ≤ s.rng.length → 2 ≤ c ∧ c + 2 ≤ m →
          ∃ t, exec i s = .next t ∧ t.Ended { s with rng := s.rng.drop n } 0 ∧ t.val (s.arg 0) n = c ∧
            t.SameOutside s (s.arg 0) n) ∧
          (n ≤ s.rng.length → ¬(2 ≤ c ∧ c + 2 ≤ m) → exec i s = .next { s with
            rng := s.rng.drop n, pending := s.pending.map fun p => { p with attempts := p.attempts + 1 } })
    (s.RndReady k 4 → attempt (.rnd k) (s.nextCandidate k)) ∧
      (s.RndReady k 5 → attempt (.rndodd k) (s.nextCandidate k ||| 1))

/-- 48_random.md R325: one step of RNDINV accepts an invertible candidate in `[2, m-2]` and stores it and its
inverse, or rejects it; with too few words ready it waits. -/
def Obligations.RndinvAttempts : Prop :=
  ∀ (s : State) (k : Fin 4), s.RndinvReady k →
    let n := s.slotN k
    let m := s.modulus k
    let c := s.nextCandidate k
    let accepted := 2 ≤ c ∧ c + 2 ≤ m ∧ Nat.gcd c m = 1
    (s.rng.length < n → exec (.rndinv k) s = .next s) ∧
      (n ≤ s.rng.length → accepted →
        ∃ t, exec (.rndinv k) s = .next t ∧ t.Ended { s with rng := s.rng.drop n } 0 ∧ t.val (s.arg 0) n = c ∧
          t.val (s.arg 1) n < m ∧ c * t.val (s.arg 1) n % m = 1 ∧
            ∀ a, (a < s.arg 0 ∨ s.arg 0 + n ≤ a) → (a < s.arg 1 ∨ s.arg 1 + n ≤ a) →
              (a < s.arg 2 ∨ s.arg 2 + (6 * n + 6) ≤ a) → t.word a = s.word a) ∧
        (n ≤ s.rng.length → ¬accepted → exec (.rndinv k) s = .next { s with
          rng := s.rng.drop n, pending := s.pending.map fun p => { p with attempts := p.attempts + 1 } })

/-! ## Frames -/

/-- Frame of the registers, for every command and every outcome: CTRL, OVR, CMD, the argument registers
(10_state.md R32, R42, R43, R44) and the agents' fields are as before; the slots change only by SETMOD and
CTXCLR, and then only slot `k` (46_barrett.md R254, R255, R263); draws are taken only by the sampling commands
(20_memory.md R90). -/
def Obligations.ExecLeavesOtherRegisters : Prop :=
  ∀ (i : Instr) (s t : State), exec i s = .next t →
    t.params = s.params ∧ t.ie = s.ie ∧ t.ovr = s.ovr ∧ t.cmd = s.cmd ∧ t.args = s.args ∧ t.held = s.held ∧
      t.turns = s.turns ∧ t.replies = s.replies ∧ t.epoch = s.epoch ∧
        (∀ j, (i ≠ .setmod j ∧ i ≠ .ctxclr j) → t.slot j = s.slot j) ∧
          ((∀ k, i ≠ .rnd k ∧ i ≠ .rndodd k ∧ i ≠ .rndinv k) → t.rng = s.rng)

/-- Frame of the memory, for every command and every outcome: a word outside the command's out, io and ws buffers
reads as before, and after an error every word does, with RES and the slots unchanged (60_exceptions.md R344). -/
def Obligations.ExecLeavesOtherWords : Prop :=
  ∀ (i : Instr) (s t : State), exec i s = .next t →
    (∀ a, ¬(formOf i s).Writes a → t.word a = s.word a) ∧
      ((formOf i s).firstError s ≠ .noError → t.lm = s.lm ∧ t.res = s.res ∧ t.ctx = s.ctx ∧ t.rng = s.rng)

/-- The writes of the commands that write no word: the compares, the bit tests and counts, MODW and CTXCLR leave
the memory as it is (41_compare.md R152, 42_bitwise.md R174, 44_divide.md R226, 46_barrett.md R265). -/
def Obligations.ReportingCommandsWriteNoWord : Prop :=
  ∀ (s t : State),
    ∀ i ∈ [Instr.eq, .ne, .gt, .lt, .ge, .le, .eqx, .nex, .gtx, .ltx, .gex, .lex, .tstmsb, .tstlsb, .clz, .ctz, .modw,
        .ctxclr 0, .ctxclr 1, .ctxclr 2, .ctxclr 3], exec i s = .next t → t.lm = s.lm ∧ ∀ a, t.word a = s.word a

/-- Every command completes or, if it samples, may stay pending: no command faults or is refused, and a pending
command that does not sample has ended after its step (20_memory.md R84, 60_exceptions.md R340). -/
def Obligations.EveryCommandAnswers : Prop :=
  ∀ (i : Instr) (s : State), ∃ t, exec i s = .next t ∧
    ((∀ k, i ≠ .rnd k ∧ i ≠ .rndodd k ∧ i ≠ .rndinv k) → t.pending = none ∧ t.done = true)

/-! ## Invariants -/

/-- The machine right after reset is sound (70_reset_and_hazards.md R380; the parameters are log 1's). -/
def Obligations.ResetIsSound : Prop := State.reset.Sound

/-- No step changes W or LM_WORDS: ID and LMSIZE are constant (10_state.md R40, R41). -/
def Obligations.StepKeepsParameters : Prop :=
  ∀ s t : State, step s = .next t → t.params = s.params

/-- Every step keeps the canonical form of the memory, within LM_WORDS words of W bits, and RES a word of W bits
(10_state.md R33, R53). -/
def Obligations.StepKeepsMemorySound : Prop :=
  ∀ s t : State, s.MemorySound → step s = .next t → t.MemorySound

/-- Every step keeps STATUS and the latched command coherent (10_state.md R44, R55, 70_reset_and_hazards.md R392). -/
def Obligations.StepKeepsStatusSound : Prop :=
  ∀ s t : State, s.StatusSound → step s = .next t → t.StatusSound

/-- 10_state.md R52: every step, of any agent, keeps the invariant of the valid slots: each holds a modulus of N
words and its coefficient, inside the memory, and no two share a word (46_barrett.md R254). -/
def Obligations.StepKeepsSlotsSound : Prop :=
  ∀ s t : State, s.SlotsSound → step s = .next t → t.SlotsSound
end

