-- ==== Sys2Proof/Laws/State.lean ====
section
/-! SUPPORT. What each update of State does to each field, true by rfl: the simp set that keeps record
updates folded. -/

namespace Sys2Proof.Machine

section store

variable (s : State) (a n v : Nat)

@[simp] theorem State.store_params : (s.store a n v).params = s.params := rfl
@[simp] theorem State.store_ie : (s.store a n v).ie = s.ie := rfl
@[simp] theorem State.store_done : (s.store a n v).done = s.done := rfl
@[simp] theorem State.store_err : (s.store a n v).err = s.err := rfl
@[simp] theorem State.store_ovr : (s.store a n v).ovr = s.ovr := rfl
@[simp] theorem State.store_errCode : (s.store a n v).errCode = s.errCode := rfl
@[simp] theorem State.store_cmd : (s.store a n v).cmd = s.cmd := rfl
@[simp] theorem State.store_res : (s.store a n v).res = s.res := rfl
@[simp] theorem State.store_args : (s.store a n v).args = s.args := rfl
@[simp] theorem State.store_ctx : (s.store a n v).ctx = s.ctx := rfl
@[simp] theorem State.store_lm : (s.store a n v).lm = Memory.store s.radix s.lm a n v := rfl
@[simp] theorem State.store_pending : (s.store a n v).pending = s.pending := rfl
@[simp] theorem State.store_held : (s.store a n v).held = s.held := rfl
@[simp] theorem State.store_rng : (s.store a n v).rng = s.rng := rfl
@[simp] theorem State.store_turns : (s.store a n v).turns = s.turns := rfl
@[simp] theorem State.store_replies : (s.store a n v).replies = s.replies := rfl
@[simp] theorem State.store_free : (s.store a n v).free = s.free := rfl
@[simp] theorem State.store_epoch : (s.store a n v).epoch = s.epoch := rfl
@[simp] theorem State.store_wordBits : (s.store a n v).wordBits = s.wordBits := rfl
@[simp] theorem State.store_radix : (s.store a n v).radix = s.radix := rfl
@[simp] theorem State.store_slot (j : Fin 4) : (s.store a n v).slot j = s.slot j := rfl
@[simp] theorem State.store_slotN (j : Fin 4) : (s.store a n v).slotN j = s.slotN j := rfl
@[simp] theorem State.store_slotBase (j : Fin 4) : (s.store a n v).slotBase j = s.slotBase j := rfl
@[simp] theorem State.store_latchedArgs : (s.store a n v).latchedArgs = s.latchedArgs := rfl
@[simp] theorem State.store_arg (i : Fin 8) : (s.store a n v).arg i = s.arg i := rfl
@[simp] theorem State.store_busy : (s.store a n v).busy = s.busy := rfl

end store

section havoc

variable (s : State) (a n : Nat)

@[simp] theorem State.havoc_params : (s.havoc a n).params = s.params := rfl
@[simp] theorem State.havoc_ie : (s.havoc a n).ie = s.ie := rfl
@[simp] theorem State.havoc_done : (s.havoc a n).done = s.done := rfl
@[simp] theorem State.havoc_err : (s.havoc a n).err = s.err := rfl
@[simp] theorem State.havoc_ovr : (s.havoc a n).ovr = s.ovr := rfl
@[simp] theorem State.havoc_errCode : (s.havoc a n).errCode = s.errCode := rfl
@[simp] theorem State.havoc_cmd : (s.havoc a n).cmd = s.cmd := rfl
@[simp] theorem State.havoc_res : (s.havoc a n).res = s.res := rfl
@[simp] theorem State.havoc_args : (s.havoc a n).args = s.args := rfl
@[simp] theorem State.havoc_ctx : (s.havoc a n).ctx = s.ctx := rfl
@[simp] theorem State.havoc_lm : (s.havoc a n).lm = Memory.havoc s.radix s.lm a s.free n := rfl
@[simp] theorem State.havoc_pending : (s.havoc a n).pending = s.pending := rfl
@[simp] theorem State.havoc_held : (s.havoc a n).held = s.held := rfl
@[simp] theorem State.havoc_rng : (s.havoc a n).rng = s.rng := rfl
@[simp] theorem State.havoc_turns : (s.havoc a n).turns = s.turns := rfl
@[simp] theorem State.havoc_replies : (s.havoc a n).replies = s.replies := rfl
@[simp] theorem State.havoc_free : (s.havoc a n).free = s.free + n := rfl
@[simp] theorem State.havoc_epoch : (s.havoc a n).epoch = s.epoch := rfl
@[simp] theorem State.havoc_wordBits : (s.havoc a n).wordBits = s.wordBits := rfl
@[simp] theorem State.havoc_radix : (s.havoc a n).radix = s.radix := rfl
@[simp] theorem State.havoc_slot (j : Fin 4) : (s.havoc a n).slot j = s.slot j := rfl
@[simp] theorem State.havoc_slotN (j : Fin 4) : (s.havoc a n).slotN j = s.slotN j := rfl
@[simp] theorem State.havoc_slotBase (j : Fin 4) : (s.havoc a n).slotBase j = s.slotBase j := rfl
@[simp] theorem State.havoc_latchedArgs : (s.havoc a n).latchedArgs = s.latchedArgs := rfl
@[simp] theorem State.havoc_arg (i : Fin 8) : (s.havoc a n).arg i = s.arg i := rfl
@[simp] theorem State.havoc_busy : (s.havoc a n).busy = s.busy := rfl

end havoc

section setRes

variable (s : State) (v : Nat)

@[simp] theorem State.setRes_params : (s.setRes v).params = s.params := rfl
@[simp] theorem State.setRes_ie : (s.setRes v).ie = s.ie := rfl
@[simp] theorem State.setRes_done : (s.setRes v).done = s.done := rfl
@[simp] theorem State.setRes_err : (s.setRes v).err = s.err := rfl
@[simp] theorem State.setRes_ovr : (s.setRes v).ovr = s.ovr := rfl
@[simp] theorem State.setRes_errCode : (s.setRes v).errCode = s.errCode := rfl
@[simp] theorem State.setRes_cmd : (s.setRes v).cmd = s.cmd := rfl
@[simp] theorem State.setRes_res : (s.setRes v).res = BitVec.ofNat 64 (v % s.radix) := rfl
@[simp] theorem State.setRes_args : (s.setRes v).args = s.args := rfl
@[simp] theorem State.setRes_ctx : (s.setRes v).ctx = s.ctx := rfl
@[simp] theorem State.setRes_lm : (s.setRes v).lm = s.lm := rfl
@[simp] theorem State.setRes_pending : (s.setRes v).pending = s.pending := rfl
@[simp] theorem State.setRes_held : (s.setRes v).held = s.held := rfl
@[simp] theorem State.setRes_rng : (s.setRes v).rng = s.rng := rfl
@[simp] theorem State.setRes_turns : (s.setRes v).turns = s.turns := rfl
@[simp] theorem State.setRes_replies : (s.setRes v).replies = s.replies := rfl
@[simp] theorem State.setRes_free : (s.setRes v).free = s.free := rfl
@[simp] theorem State.setRes_epoch : (s.setRes v).epoch = s.epoch := rfl
@[simp] theorem State.setRes_wordBits : (s.setRes v).wordBits = s.wordBits := rfl
@[simp] theorem State.setRes_radix : (s.setRes v).radix = s.radix := rfl
@[simp] theorem State.setRes_slot (j : Fin 4) : (s.setRes v).slot j = s.slot j := rfl
@[simp] theorem State.setRes_slotN (j : Fin 4) : (s.setRes v).slotN j = s.slotN j := rfl
@[simp] theorem State.setRes_slotBase (j : Fin 4) : (s.setRes v).slotBase j = s.slotBase j := rfl
@[simp] theorem State.setRes_latchedArgs : (s.setRes v).latchedArgs = s.latchedArgs := rfl
@[simp] theorem State.setRes_arg (i : Fin 8) : (s.setRes v).arg i = s.arg i := rfl
@[simp] theorem State.setRes_busy : (s.setRes v).busy = s.busy := rfl
@[simp] theorem State.setRes_word (x : Nat) : (s.setRes v).word x = s.word x := rfl

end setRes

section setSlot

variable (s : State) (k : Fin 4) (c : Slot)

@[simp] theorem State.setSlot_params : (s.setSlot k c).params = s.params := rfl
@[simp] theorem State.setSlot_ie : (s.setSlot k c).ie = s.ie := rfl
@[simp] theorem State.setSlot_done : (s.setSlot k c).done = s.done := rfl
@[simp] theorem State.setSlot_err : (s.setSlot k c).err = s.err := rfl
@[simp] theorem State.setSlot_ovr : (s.setSlot k c).ovr = s.ovr := rfl
@[simp] theorem State.setSlot_errCode : (s.setSlot k c).errCode = s.errCode := rfl
@[simp] theorem State.setSlot_cmd : (s.setSlot k c).cmd = s.cmd := rfl
@[simp] theorem State.setSlot_res : (s.setSlot k c).res = s.res := rfl
@[simp] theorem State.setSlot_args : (s.setSlot k c).args = s.args := rfl
@[simp] theorem State.setSlot_ctx : (s.setSlot k c).ctx = s.ctx.set c k := rfl
@[simp] theorem State.setSlot_lm : (s.setSlot k c).lm = s.lm := rfl
@[simp] theorem State.setSlot_pending : (s.setSlot k c).pending = s.pending := rfl
@[simp] theorem State.setSlot_held : (s.setSlot k c).held = s.held := rfl
@[simp] theorem State.setSlot_rng : (s.setSlot k c).rng = s.rng := rfl
@[simp] theorem State.setSlot_turns : (s.setSlot k c).turns = s.turns := rfl
@[simp] theorem State.setSlot_replies : (s.setSlot k c).replies = s.replies := rfl
@[simp] theorem State.setSlot_free : (s.setSlot k c).free = s.free := rfl
@[simp] theorem State.setSlot_epoch : (s.setSlot k c).epoch = s.epoch := rfl
@[simp] theorem State.setSlot_wordBits : (s.setSlot k c).wordBits = s.wordBits := rfl
@[simp] theorem State.setSlot_radix : (s.setSlot k c).radix = s.radix := rfl
@[simp] theorem State.setSlot_latchedArgs : (s.setSlot k c).latchedArgs = s.latchedArgs := rfl
@[simp] theorem State.setSlot_arg (i : Fin 8) : (s.setSlot k c).arg i = s.arg i := rfl
@[simp] theorem State.setSlot_busy : (s.setSlot k c).busy = s.busy := rfl
@[simp] theorem State.setSlot_word (x : Nat) : (s.setSlot k c).word x = s.word x := rfl

end setSlot

section complete

variable (s : State) (e : ErrorCode)

@[simp] theorem State.complete_params : (s.complete e).params = s.params := rfl
@[simp] theorem State.complete_ie : (s.complete e).ie = s.ie := rfl
@[simp] theorem State.complete_done : (s.complete e).done = true := rfl
@[simp] theorem State.complete_err : (s.complete e).err = (s.err || decide (e ≠ .noError)) := rfl
@[simp] theorem State.complete_ovr : (s.complete e).ovr = s.ovr := rfl
@[simp] theorem State.complete_errCode : (s.complete e).errCode = e := rfl
@[simp] theorem State.complete_cmd : (s.complete e).cmd = s.cmd := rfl
@[simp] theorem State.complete_res : (s.complete e).res = s.res := rfl
@[simp] theorem State.complete_args : (s.complete e).args = s.args := rfl
@[simp] theorem State.complete_ctx : (s.complete e).ctx = s.ctx := rfl
@[simp] theorem State.complete_lm : (s.complete e).lm = s.lm := rfl
@[simp] theorem State.complete_pending : (s.complete e).pending = none := rfl
@[simp] theorem State.complete_held : (s.complete e).held = s.held := rfl
@[simp] theorem State.complete_rng : (s.complete e).rng = s.rng := rfl
@[simp] theorem State.complete_turns : (s.complete e).turns = s.turns := rfl
@[simp] theorem State.complete_replies : (s.complete e).replies = s.replies := rfl
@[simp] theorem State.complete_free : (s.complete e).free = s.free := rfl
@[simp] theorem State.complete_epoch : (s.complete e).epoch = s.epoch := rfl
@[simp] theorem State.complete_wordBits : (s.complete e).wordBits = s.wordBits := rfl
@[simp] theorem State.complete_radix : (s.complete e).radix = s.radix := rfl
@[simp] theorem State.complete_slot (j : Fin 4) : (s.complete e).slot j = s.slot j := rfl
@[simp] theorem State.complete_slotN (j : Fin 4) : (s.complete e).slotN j = s.slotN j := rfl
@[simp] theorem State.complete_slotBase (j : Fin 4) : (s.complete e).slotBase j = s.slotBase j := rfl
@[simp] theorem State.complete_word (x : Nat) : (s.complete e).word x = s.word x := rfl

end complete

section accept

variable (s : State) (c : Reg)

@[simp] theorem State.accept_params : (s.accept c).params = s.params := rfl
@[simp] theorem State.accept_ie : (s.accept c).ie = s.ie := rfl
@[simp] theorem State.accept_done : (s.accept c).done = false := rfl
@[simp] theorem State.accept_err : (s.accept c).err = false := rfl
@[simp] theorem State.accept_ovr : (s.accept c).ovr = s.ovr := rfl
@[simp] theorem State.accept_errCode : (s.accept c).errCode = .noError := rfl
@[simp] theorem State.accept_cmd : (s.accept c).cmd = c := rfl
@[simp] theorem State.accept_res : (s.accept c).res = s.res := rfl
@[simp] theorem State.accept_args : (s.accept c).args = s.args := rfl
@[simp] theorem State.accept_ctx : (s.accept c).ctx = s.ctx := rfl
@[simp] theorem State.accept_lm : (s.accept c).lm = s.lm := rfl
@[simp] theorem State.accept_pending : (s.accept c).pending = some { cmd := c, args := s.args, attempts := 0 } := rfl
@[simp] theorem State.accept_held : (s.accept c).held = s.held := rfl
@[simp] theorem State.accept_rng : (s.accept c).rng = s.rng := rfl
@[simp] theorem State.accept_turns : (s.accept c).turns = s.turns := rfl
@[simp] theorem State.accept_replies : (s.accept c).replies = s.replies := rfl
@[simp] theorem State.accept_free : (s.accept c).free = s.free := rfl
@[simp] theorem State.accept_epoch : (s.accept c).epoch = s.epoch := rfl
@[simp] theorem State.accept_wordBits : (s.accept c).wordBits = s.wordBits := rfl
@[simp] theorem State.accept_radix : (s.accept c).radix = s.radix := rfl
@[simp] theorem State.accept_slot (j : Fin 4) : (s.accept c).slot j = s.slot j := rfl
@[simp] theorem State.accept_slotN (j : Fin 4) : (s.accept c).slotN j = s.slotN j := rfl
@[simp] theorem State.accept_slotBase (j : Fin 4) : (s.accept c).slotBase j = s.slotBase j := rfl
@[simp] theorem State.accept_word (x : Nat) : (s.accept c).word x = s.word x := rfl

end accept

section writeStatus

variable (s : State) (v : Reg)

@[simp] theorem State.writeStatus_params : (s.writeStatus v).params = s.params := rfl
@[simp] theorem State.writeStatus_ie : (s.writeStatus v).ie = s.ie := rfl
@[simp] theorem State.writeStatus_done : (s.writeStatus v).done = (s.done && !v.getLsbD 1) := rfl
@[simp] theorem State.writeStatus_err : (s.writeStatus v).err = (s.err && !v.getLsbD 2) := rfl
@[simp] theorem State.writeStatus_ovr : (s.writeStatus v).ovr = (s.ovr && !v.getLsbD 3) := rfl
@[simp] theorem State.writeStatus_errCode : (s.writeStatus v).errCode = s.errCode := rfl
@[simp] theorem State.writeStatus_cmd : (s.writeStatus v).cmd = s.cmd := rfl
@[simp] theorem State.writeStatus_res : (s.writeStatus v).res = s.res := rfl
@[simp] theorem State.writeStatus_args : (s.writeStatus v).args = s.args := rfl
@[simp] theorem State.writeStatus_ctx : (s.writeStatus v).ctx = s.ctx := rfl
@[simp] theorem State.writeStatus_lm : (s.writeStatus v).lm = s.lm := rfl
@[simp] theorem State.writeStatus_pending : (s.writeStatus v).pending = s.pending := rfl
@[simp] theorem State.writeStatus_held : (s.writeStatus v).held = s.held := rfl
@[simp] theorem State.writeStatus_rng : (s.writeStatus v).rng = s.rng := rfl
@[simp] theorem State.writeStatus_turns : (s.writeStatus v).turns = s.turns := rfl
@[simp] theorem State.writeStatus_replies : (s.writeStatus v).replies = s.replies := rfl
@[simp] theorem State.writeStatus_free : (s.writeStatus v).free = s.free := rfl
@[simp] theorem State.writeStatus_epoch : (s.writeStatus v).epoch = s.epoch := rfl
@[simp] theorem State.writeStatus_wordBits : (s.writeStatus v).wordBits = s.wordBits := rfl
@[simp] theorem State.writeStatus_radix : (s.writeStatus v).radix = s.radix := rfl
@[simp] theorem State.writeStatus_slot (j : Fin 4) : (s.writeStatus v).slot j = s.slot j := rfl
@[simp] theorem State.writeStatus_slotN (j : Fin 4) : (s.writeStatus v).slotN j = s.slotN j := rfl
@[simp] theorem State.writeStatus_slotBase (j : Fin 4) : (s.writeStatus v).slotBase j = s.slotBase j := rfl
@[simp] theorem State.writeStatus_latchedArgs : (s.writeStatus v).latchedArgs = s.latchedArgs := rfl
@[simp] theorem State.writeStatus_arg (i : Fin 8) : (s.writeStatus v).arg i = s.arg i := rfl
@[simp] theorem State.writeStatus_busy : (s.writeStatus v).busy = s.busy := rfl
@[simp] theorem State.writeStatus_word (x : Nat) : (s.writeStatus v).word x = s.word x := rfl

end writeStatus

section takeDraws

variable (s : State) (k : Fin 4)

@[simp] theorem State.takeDraws_params : (s.takeDraws k).params = s.params := rfl
@[simp] theorem State.takeDraws_ie : (s.takeDraws k).ie = s.ie := rfl
@[simp] theorem State.takeDraws_done : (s.takeDraws k).done = s.done := rfl
@[simp] theorem State.takeDraws_err : (s.takeDraws k).err = s.err := rfl
@[simp] theorem State.takeDraws_ovr : (s.takeDraws k).ovr = s.ovr := rfl
@[simp] theorem State.takeDraws_errCode : (s.takeDraws k).errCode = s.errCode := rfl
@[simp] theorem State.takeDraws_cmd : (s.takeDraws k).cmd = s.cmd := rfl
@[simp] theorem State.takeDraws_res : (s.takeDraws k).res = s.res := rfl
@[simp] theorem State.takeDraws_args : (s.takeDraws k).args = s.args := rfl
@[simp] theorem State.takeDraws_ctx : (s.takeDraws k).ctx = s.ctx := rfl
@[simp] theorem State.takeDraws_lm : (s.takeDraws k).lm = s.lm := rfl
@[simp] theorem State.takeDraws_pending : (s.takeDraws k).pending = s.pending := rfl
@[simp] theorem State.takeDraws_held : (s.takeDraws k).held = s.held := rfl
@[simp] theorem State.takeDraws_rng : (s.takeDraws k).rng = s.rng.drop (s.slotN k) := rfl
@[simp] theorem State.takeDraws_turns : (s.takeDraws k).turns = s.turns := rfl
@[simp] theorem State.takeDraws_replies : (s.takeDraws k).replies = s.replies := rfl
@[simp] theorem State.takeDraws_free : (s.takeDraws k).free = s.free := rfl
@[simp] theorem State.takeDraws_epoch : (s.takeDraws k).epoch = s.epoch := rfl
@[simp] theorem State.takeDraws_wordBits : (s.takeDraws k).wordBits = s.wordBits := rfl
@[simp] theorem State.takeDraws_radix : (s.takeDraws k).radix = s.radix := rfl
@[simp] theorem State.takeDraws_slot (j : Fin 4) : (s.takeDraws k).slot j = s.slot j := rfl
@[simp] theorem State.takeDraws_slotN (j : Fin 4) : (s.takeDraws k).slotN j = s.slotN j := rfl
@[simp] theorem State.takeDraws_slotBase (j : Fin 4) : (s.takeDraws k).slotBase j = s.slotBase j := rfl
@[simp] theorem State.takeDraws_latchedArgs : (s.takeDraws k).latchedArgs = s.latchedArgs := rfl
@[simp] theorem State.takeDraws_arg (i : Fin 8) : (s.takeDraws k).arg i = s.arg i := rfl
@[simp] theorem State.takeDraws_busy : (s.takeDraws k).busy = s.busy := rfl
@[simp] theorem State.takeDraws_word (x : Nat) : (s.takeDraws k).word x = s.word x := rfl

end takeDraws

section retry

variable (s : State)

@[simp] theorem State.retry_params : (s.retry).params = s.params := rfl
@[simp] theorem State.retry_ie : (s.retry).ie = s.ie := rfl
@[simp] theorem State.retry_done : (s.retry).done = s.done := rfl
@[simp] theorem State.retry_err : (s.retry).err = s.err := rfl
@[simp] theorem State.retry_ovr : (s.retry).ovr = s.ovr := rfl
@[simp] theorem State.retry_errCode : (s.retry).errCode = s.errCode := rfl
@[simp] theorem State.retry_cmd : (s.retry).cmd = s.cmd := rfl
@[simp] theorem State.retry_res : (s.retry).res = s.res := rfl
@[simp] theorem State.retry_args : (s.retry).args = s.args := rfl
@[simp] theorem State.retry_ctx : (s.retry).ctx = s.ctx := rfl
@[simp] theorem State.retry_lm : (s.retry).lm = s.lm := rfl
@[simp] theorem State.retry_pending : (s.retry).pending = s.pending.map fun p => { p with attempts := p.attempts + 1 } := rfl
@[simp] theorem State.retry_held : (s.retry).held = s.held := rfl
@[simp] theorem State.retry_rng : (s.retry).rng = s.rng := rfl
@[simp] theorem State.retry_turns : (s.retry).turns = s.turns := rfl
@[simp] theorem State.retry_replies : (s.retry).replies = s.replies := rfl
@[simp] theorem State.retry_free : (s.retry).free = s.free := rfl
@[simp] theorem State.retry_epoch : (s.retry).epoch = s.epoch := rfl
@[simp] theorem State.retry_wordBits : (s.retry).wordBits = s.wordBits := rfl
@[simp] theorem State.retry_radix : (s.retry).radix = s.radix := rfl
@[simp] theorem State.retry_slot (j : Fin 4) : (s.retry).slot j = s.slot j := rfl
@[simp] theorem State.retry_slotN (j : Fin 4) : (s.retry).slotN j = s.slotN j := rfl
@[simp] theorem State.retry_slotBase (j : Fin 4) : (s.retry).slotBase j = s.slotBase j := rfl
@[simp] theorem State.retry_word (x : Nat) : (s.retry).word x = s.word x := rfl

end retry

section deliver

variable (s : State) (w : Word)

@[simp] theorem State.deliver_params : (s.deliver w).params = s.params := rfl
@[simp] theorem State.deliver_ie : (s.deliver w).ie = s.ie := rfl
@[simp] theorem State.deliver_done : (s.deliver w).done = s.done := rfl
@[simp] theorem State.deliver_err : (s.deliver w).err = s.err := rfl
@[simp] theorem State.deliver_ovr : (s.deliver w).ovr = s.ovr := rfl
@[simp] theorem State.deliver_errCode : (s.deliver w).errCode = s.errCode := rfl
@[simp] theorem State.deliver_cmd : (s.deliver w).cmd = s.cmd := rfl
@[simp] theorem State.deliver_res : (s.deliver w).res = s.res := rfl
@[simp] theorem State.deliver_args : (s.deliver w).args = s.args := rfl
@[simp] theorem State.deliver_ctx : (s.deliver w).ctx = s.ctx := rfl
@[simp] theorem State.deliver_lm : (s.deliver w).lm = s.lm := rfl
@[simp] theorem State.deliver_pending : (s.deliver w).pending = s.pending := rfl
@[simp] theorem State.deliver_held : (s.deliver w).held = s.held := rfl
@[simp] theorem State.deliver_rng : (s.deliver w).rng = s.rng ++ [w] := rfl
@[simp] theorem State.deliver_turns : (s.deliver w).turns = s.turns := rfl
@[simp] theorem State.deliver_replies : (s.deliver w).replies = s.replies := rfl
@[simp] theorem State.deliver_free : (s.deliver w).free = s.free := rfl
@[simp] theorem State.deliver_epoch : (s.deliver w).epoch = s.epoch := rfl
@[simp] theorem State.deliver_wordBits : (s.deliver w).wordBits = s.wordBits := rfl
@[simp] theorem State.deliver_radix : (s.deliver w).radix = s.radix := rfl
@[simp] theorem State.deliver_slot (j : Fin 4) : (s.deliver w).slot j = s.slot j := rfl
@[simp] theorem State.deliver_slotN (j : Fin 4) : (s.deliver w).slotN j = s.slotN j := rfl
@[simp] theorem State.deliver_slotBase (j : Fin 4) : (s.deliver w).slotBase j = s.slotBase j := rfl
@[simp] theorem State.deliver_latchedArgs : (s.deliver w).latchedArgs = s.latchedArgs := rfl
@[simp] theorem State.deliver_arg (i : Fin 8) : (s.deliver w).arg i = s.arg i := rfl
@[simp] theorem State.deliver_busy : (s.deliver w).busy = s.busy := rfl
@[simp] theorem State.deliver_word (x : Nat) : (s.deliver w).word x = s.word x := rfl

end deliver

section clearRegisters

variable (s : State)

@[simp] theorem State.clearRegisters_params : (s.clearRegisters).params = s.params := rfl
@[simp] theorem State.clearRegisters_ie : (s.clearRegisters).ie = false := rfl
@[simp] theorem State.clearRegisters_done : (s.clearRegisters).done = false := rfl
@[simp] theorem State.clearRegisters_err : (s.clearRegisters).err = false := rfl
@[simp] theorem State.clearRegisters_ovr : (s.clearRegisters).ovr = false := rfl
@[simp] theorem State.clearRegisters_errCode : (s.clearRegisters).errCode = .noError := rfl
@[simp] theorem State.clearRegisters_cmd : (s.clearRegisters).cmd = 0 := rfl
@[simp] theorem State.clearRegisters_res : (s.clearRegisters).res = 0 := rfl
@[simp] theorem State.clearRegisters_args : (s.clearRegisters).args = .zero := rfl
@[simp] theorem State.clearRegisters_ctx : (s.clearRegisters).ctx = .empty := rfl
@[simp] theorem State.clearRegisters_lm : (s.clearRegisters).lm = s.lm := rfl
@[simp] theorem State.clearRegisters_pending : (s.clearRegisters).pending = s.pending := rfl
@[simp] theorem State.clearRegisters_held : (s.clearRegisters).held = s.held := rfl
@[simp] theorem State.clearRegisters_rng : (s.clearRegisters).rng = s.rng := rfl
@[simp] theorem State.clearRegisters_turns : (s.clearRegisters).turns = s.turns := rfl
@[simp] theorem State.clearRegisters_replies : (s.clearRegisters).replies = s.replies := rfl
@[simp] theorem State.clearRegisters_free : (s.clearRegisters).free = s.free := rfl
@[simp] theorem State.clearRegisters_epoch : (s.clearRegisters).epoch = s.epoch := rfl
@[simp] theorem State.clearRegisters_wordBits : (s.clearRegisters).wordBits = s.wordBits := rfl
@[simp] theorem State.clearRegisters_radix : (s.clearRegisters).radix = s.radix := rfl
@[simp] theorem State.clearRegisters_busy : (s.clearRegisters).busy = s.busy := rfl
@[simp] theorem State.clearRegisters_word (x : Nat) : (s.clearRegisters).word x = s.word x := rfl

end clearRegisters

section powerOn

variable (s : State)

@[simp] theorem State.powerOn_params : (s.powerOn).params = s.params := rfl
@[simp] theorem State.powerOn_ie : (s.powerOn).ie = false := rfl
@[simp] theorem State.powerOn_done : (s.powerOn).done = false := rfl
@[simp] theorem State.powerOn_err : (s.powerOn).err = false := rfl
@[simp] theorem State.powerOn_ovr : (s.powerOn).ovr = false := rfl
@[simp] theorem State.powerOn_errCode : (s.powerOn).errCode = .noError := rfl
@[simp] theorem State.powerOn_cmd : (s.powerOn).cmd = 0 := rfl
@[simp] theorem State.powerOn_res : (s.powerOn).res = 0 := rfl
@[simp] theorem State.powerOn_args : (s.powerOn).args = .zero := rfl
@[simp] theorem State.powerOn_ctx : (s.powerOn).ctx = .empty := rfl
@[simp] theorem State.powerOn_lm : (s.powerOn).lm = [] := rfl
@[simp] theorem State.powerOn_pending : (s.powerOn).pending = none := rfl
@[simp] theorem State.powerOn_held : (s.powerOn).held = [] := rfl
@[simp] theorem State.powerOn_rng : (s.powerOn).rng = s.rng := rfl
@[simp] theorem State.powerOn_turns : (s.powerOn).turns = s.turns := rfl
@[simp] theorem State.powerOn_replies : (s.powerOn).replies = s.replies := rfl
@[simp] theorem State.powerOn_free : (s.powerOn).free = s.free := rfl
@[simp] theorem State.powerOn_epoch : (s.powerOn).epoch = s.epoch + 1 := rfl
@[simp] theorem State.powerOn_wordBits : (s.powerOn).wordBits = s.wordBits := rfl
@[simp] theorem State.powerOn_radix : (s.powerOn).radix = s.radix := rfl

end powerOn

@[simp] theorem State.complete_busy (s : State) (e : ErrorCode) : (s.complete e).busy = false := rfl
@[simp] theorem State.accept_busy (s : State) (c : Reg) : (s.accept c).busy = true := rfl

/-- Writing a slot and reading it back. -/
@[simp] theorem CtxFile.get_set_same (f : CtxFile) (c : Slot) (k : Fin 4) : (f.set c k).get k = c := by
  fin_cases k <;> rfl

/-- Writing a slot leaves the others. -/
theorem CtxFile.get_set_other (f : CtxFile) (c : Slot) (j k : Fin 4) (h : j ≠ k) : (f.set c k).get j = f.get j := by
  fin_cases j <;> fin_cases k <;> first | rfl | exact absurd rfl h

/-- Writing an argument register and reading it back. -/
@[simp] theorem ArgFile.get_set_same (f : ArgFile) (v : Reg) (i : Fin 8) : (f.set v i).get i = v := by
  fin_cases i <;> rfl

/-- Writing an argument register leaves the others. -/
theorem ArgFile.get_set_other (f : ArgFile) (v : Reg) (i j : Fin 8) (h : j ≠ i) : (f.set v i).get j = f.get j := by
  fin_cases j <;> fin_cases i <;> first | rfl | exact absurd rfl h

/-- `CTX[k] <- c` and reading it back. -/
@[simp] theorem State.setSlot_slot_same (s : State) (k : Fin 4) (c : Slot) : (s.setSlot k c).slot k = c :=
  CtxFile.get_set_same _ _ _

/-- `CTX[k] <- c` leaves the other slots. -/
theorem State.setSlot_slot_other (s : State) (j k : Fin 4) (c : Slot) (h : j ≠ k) :
    (s.setSlot k c).slot j = s.slot j :=
  CtxFile.get_set_other _ _ _ _ h

/-- A host write keeps BASE and N of every slot. -/
@[simp] theorem CtxFile.get_touched (f : CtxFile) (a : Nat) (k : Fin 4) : (f.touched a).get k = (f.get k).touched a := by
  fin_cases k <;> rfl

/-- No slot of the empty file is valid. -/
@[simp] theorem CtxFile.get_empty (k : Fin 4) : CtxFile.empty.get k = Slot.empty := by fin_cases k <;> rfl

/-- Every field but the memory is as before after any number of table entries. -/
theorem State.storeTable_eq (s : State) (a n : Nat) (tab : Nat → Nat) (k : Nat) :
    s.storeTable a n tab k = { s with lm := (s.storeTable a n tab k).lm } := by
  induction k with
  | zero => rfl
  | succ k ih => rw [State.storeTable, ih]; rfl

end Sys2Proof.Machine
end

