-- ==== Sys2Proof/Laws/Memory.lean ====
section
/-! SUPPORT. The laws of the limb memory: read after write, what a store and a havoc leave alone, and that
every memory operation keeps the canonical form. -/

namespace Sys2Proof.Machine

theorem State.one_lt_radix (s : State) : 1 < s.radix := by
  unfold State.radix State.wordBits; cases s.params.width <;> decide

theorem State.radix_pos (s : State) : 0 < s.radix := Nat.lt_of_succ_lt s.one_lt_radix

theorem State.radix_le (s : State) : s.radix ≤ 2 ^ 64 := by
  unfold State.radix State.wordBits; cases s.params.width <;> decide

/-- A digit below `B` survives the 64-bit container. -/
theorem ofNat_digit (B v : Nat) (hB : B ≤ 2 ^ 64) (h0 : 0 < B) : (BitVec.ofNat 64 (v % B)).toNat = v % B := by
  rw [BitVec.toNat_ofNat, Nat.mod_eq_of_lt ((Nat.mod_lt _ h0).trans_le hB)]

/-- Read after write of one word. -/
theorem Memory.find_write (m : List LmCell) (a : Nat) (w : Word) (c : Nat) :
    Memory.find (Memory.write m a w) c = if c = a then some w else Memory.find m c := by
  induction m with
  | nil => simp [Memory.write, Memory.find]
  | cons hd m ih =>
    obtain ⟨b, v⟩ := hd
    by_cases hab : a = b
    · subst hab; by_cases hca : c = a <;> simp [Memory.write, Memory.find, hca]
    · by_cases hlt : a < b
      · by_cases hca : c = a <;> simp [Memory.write, Memory.find, hab, hlt, hca]
      · rw [Memory.write, if_neg hab, if_neg hlt, Memory.find, Memory.find, ih]
        by_cases hca : c = a
        · subst hca; simp [hab]
        · simp [hca]

/-- A store leaves every word outside its buffer. -/
theorem Memory.find_store_outside (B : Nat) (m : List LmCell) (a n v x : Nat) (h : x < a ∨ a + n ≤ x) :
    Memory.find (Memory.store B m a n v) x = Memory.find m x := by
  induction n generalizing v with
  | zero => rfl
  | succ n ih =>
    rw [Memory.store, Memory.find_write, if_neg (by omega), ih _ (by omega)]

/-- A store puts digit `i` of the value, counted from the most significant, at address `a + i`. -/
theorem Memory.find_store_at (B : Nat) (m : List LmCell) (a n v i : Nat) (h : i < n) :
    Memory.find (Memory.store B m a n v) (a + i) = some (BitVec.ofNat 64 (v / B ^ (n - 1 - i) % B)) := by
  induction n generalizing v with
  | zero => omega
  | succ n ih =>
    rw [Memory.store, Memory.find_write]
    by_cases hi : i = n
    · subst hi; simp
    · have e : n + 1 - 1 - i = (n - 1 - i) + 1 := by omega
      rw [if_neg (by omega), ih _ (by omega), Nat.div_div_eq_div_mul, e, pow_succ']

/-- A havoc leaves every word outside its buffer. -/
theorem Memory.find_havoc_outside (B : Nat) (m : List LmCell) (a free n x : Nat) (h : x < a ∨ a + n ≤ x) :
    Memory.find (Memory.havoc B m a free n) x = Memory.find m x := by
  induction n with
  | zero => rfl
  | succ n ih => rw [Memory.havoc, Memory.find_write, if_neg (by omega), ih (by omega)]

theorem State.word_lt (s : State) (a : Nat) : s.word a < s.radix := Nat.mod_lt _ s.radix_pos

/-- `Val(a, n) < B^n`. -/
theorem State.val_lt (s : State) (a n : Nat) : s.val a n < s.radix ^ n := by
  induction n with
  | zero => simp [State.val]
  | succ n ih =>
    have h := s.word_lt (a + n)
    calc s.val a n * s.radix + s.word (a + n) < (s.val a n + 1) * s.radix := by nlinarith
      _ ≤ s.radix ^ n * s.radix := Nat.mul_le_mul_right _ ih
      _ = s.radix ^ (n + 1) := (pow_succ _ _).symm

/-- The value of a buffer depends on its words only. -/
theorem State.val_congr {s t : State} (hr : t.radix = s.radix) (a n : Nat)
    (h : ∀ i < n, t.word (a + i) = s.word (a + i)) : t.val a n = s.val a n := by
  induction n with
  | zero => rfl
  | succ n ih => rw [State.val, State.val, hr, ih fun i hi => h i (by omega), h n (by omega)]

/-- Outside the stored buffer every word reads as before. -/
theorem State.word_store_outside (s : State) (a n v x : Nat) (h : x < a ∨ a + n ≤ x) :
    (s.store a n v).word x = s.word x := by
  simp only [State.word, State.store_lm, State.store_epoch, State.store_radix,
    Memory.find_store_outside _ _ _ _ _ _ h]

/-- The stored words (00_scope.md R13). -/
theorem State.word_store_at (s : State) (a n v i : Nat) (h : i < n) :
    (s.store a n v).word (a + i) = v / s.radix ^ (n - 1 - i) % s.radix := by
  simp only [State.word, State.store_lm, State.store_epoch, State.store_radix, Memory.find_store_at _ _ _ _ _ _ h,
    Option.getD_some, ofNat_digit _ _ s.radix_le s.radix_pos, Nat.mod_mod]

/-- Outside the havocked buffer every word reads as before. -/
theorem State.word_havoc_outside (s : State) (a n x : Nat) (h : x < a ∨ a + n ≤ x) :
    (s.havoc a n).word x = s.word x := by
  simp only [State.word, State.havoc_lm, State.havoc_epoch, State.havoc_radix,
    Memory.find_havoc_outside _ _ _ _ _ _ h]

/-- A stored value reads back modulo `B^n`. -/
theorem State.val_store (s : State) (a n v : Nat) : (s.store a n v).val a n = v % s.radix ^ n := by
  have key : ∀ k ≤ n, (s.store a n v).val a k = v / s.radix ^ (n - k) % s.radix ^ k := by
    intro k hk
    induction k with
    | zero => simp [State.val, Nat.mod_one]
    | succ k ih =>
      have e : n - k = n - (k + 1) + 1 := by omega
      have e2 : n - 1 - k = n - (k + 1) := by omega
      rw [State.val, ih (by omega), State.store_radix, State.word_store_at _ _ _ _ _ hk, e, e2, pow_succ,
        ← Nat.div_div_eq_div_mul, pow_succ, Nat.mul_comm (s.radix ^ k), Nat.mod_mul]
      ring
  have := key n le_rfl
  simpa using this

/-- A store leaves the value of every buffer apart from it. -/
theorem State.val_store_apart (s : State) (a n v b m : Nat) (h : a + n ≤ b ∨ b + m ≤ a) :
    (s.store a n v).val b m = s.val b m :=
  State.val_congr (s := s) (t := s.store a n v) rfl b m fun i hi => s.word_store_outside a n v (b + i) (by omega)

/-- A havoc leaves the value of every buffer apart from it. -/
theorem State.val_havoc_apart (s : State) (a n b m : Nat) (h : a + n ≤ b ∨ b + m ≤ a) :
    (s.havoc a n).val b m = s.val b m :=
  State.val_congr (s := s) (t := s.havoc a n) rfl b m fun i hi => s.word_havoc_outside a n (b + i) (by omega)

/-- Every address of a memory after a write is an old one or the written one. -/
theorem Memory.mem_write {m : List LmCell} {a : Nat} {w : Word} {c : LmCell} (h : c ∈ Memory.write m a w) :
    c = (a, w) ∨ c ∈ m := by
  induction m with
  | nil => simpa [Memory.write] using h
  | cons hd m ih =>
    obtain ⟨b, v⟩ := hd
    simp only [Memory.write] at h
    split at h
    · rcases List.mem_cons.1 h with h | h
      · exact .inl h
      · exact .inr (List.mem_cons_of_mem _ h)
    · split at h
      · exact List.mem_cons.1 h
      · rcases List.mem_cons.1 h with h | h
        · exact .inr (h ▸ List.mem_cons_self)
        · exact (ih h).imp_right (List.mem_cons_of_mem _)

/-- The canonical form, as a proposition. -/
theorem Memory.wf_iff (B size : Nat) (m : List LmCell) :
    Memory.wf B size m = true ↔
      m.Pairwise (fun c d => c.1 < d.1) ∧ ∀ c ∈ m, c.1 < size ∧ c.2.toNat < B := by
  simp [Memory.wf]

/-- A write of a word below `B` inside the memory keeps the canonical form. -/
theorem Memory.wf_write {B size : Nat} {m : List LmCell} {a : Nat} {w : Word} (h : Memory.wf B size m = true)
    (ha : a < size) (hw : w.toNat < B) : Memory.wf B size (Memory.write m a w) = true := by
  rw [Memory.wf_iff] at h ⊢
  obtain ⟨hs, hc⟩ := h
  refine ⟨?_, fun c hm => ?_⟩
  · clear hc
    induction m with
    | nil => simp [Memory.write]
    | cons hd m ih =>
      obtain ⟨b, v⟩ := hd
      rw [List.pairwise_cons] at hs
      simp only [Memory.write]
      split
      · next e => exact List.pairwise_cons.2 ⟨fun d hd => e ▸ hs.1 d hd, hs.2⟩
      · split
        · next hlt =>
          refine List.pairwise_cons.2 ⟨fun d hd => ?_, List.pairwise_cons.2 hs⟩
          rcases List.mem_cons.1 hd with rfl | hd
          · exact hlt
          · exact hlt.trans (hs.1 d hd)
        · next hne hlt =>
          refine List.pairwise_cons.2 ⟨fun d hd => ?_, ih hs.2⟩
          rcases Memory.mem_write hd with rfl | hd
          · show b < a
            omega
          · exact hs.1 d hd
  · rcases Memory.mem_write hm with rfl | hm
    · exact ⟨ha, hw⟩
    · exact hc c hm

/-- A store inside the memory keeps the canonical form. -/
theorem Memory.wf_store {B size : Nat} {m : List LmCell} (a n v : Nat) (h : Memory.wf B size m = true)
    (hB : B ≤ 2 ^ 64) (h0 : 0 < B) (hr : a + n ≤ size) : Memory.wf B size (Memory.store B m a n v) = true := by
  induction n generalizing v with
  | zero => exact h
  | succ n ih =>
    refine Memory.wf_write (ih _ (by omega)) (by omega) ?_
    rw [ofNat_digit _ _ hB h0]
    exact Nat.mod_lt _ h0

/-- A havoc inside the memory keeps the canonical form. -/
theorem Memory.wf_havoc {B size : Nat} {m : List LmCell} (a free n : Nat) (h : Memory.wf B size m = true)
    (hB : B ≤ 2 ^ 64) (h0 : 0 < B) (hr : a + n ≤ size) : Memory.wf B size (Memory.havoc B m a free n) = true := by
  induction n with
  | zero => exact h
  | succ n ih =>
    refine Memory.wf_write (ih (by omega)) (by omega) ?_
    rw [ofNat_digit _ _ hB h0]
    exact Nat.mod_lt _ h0

/-- The memory of the state after reset has the canonical form. -/
theorem State.reset_memory_wf :
    Memory.wf State.reset.radix State.reset.params.lmWords State.reset.lm = true := by decide

end Sys2Proof.Machine
end

