-- ==== Sys2Proof/Laws/Checks.lean ====
section
/-! SUPPORT. What the checks of a command decide, said once: each step of 60_exceptions.md R345 against the
proposition of Safety.lean, and the two outcomes of a command. -/

namespace Sys2Proof.Machine

/-- Regions meet exactly when they share an address. -/
theorem regionsMeet_iff (a n c m : Nat) :
    regionsMeet a n c m = true ↔ ∃ x, a ≤ x ∧ x < a + n ∧ c ≤ x ∧ x < c + m := by
  simp only [regionsMeet, decide_eq_true_eq]
  exact ⟨fun h => ⟨max a c, by omega⟩, fun ⟨x, hx⟩ => by omega⟩

/-- Buffers of at least one word are apart exactly when their regions do not meet. -/
theorem apart_iff (a n b m : Nat) (hn : 1 ≤ n) (hm : 1 ≤ m) : Apart a n b m ↔ regionsMeet a n b m = false := by
  simp only [regionsMeet, decide_eq_false_iff_not, Apart]; omega

theorem somePair_false (p : Buf → Buf → Bool) (bs : List Buf) :
    somePair p bs = false ↔ bs.Pairwise fun b c => p b c = false := by
  induction bs with
  | nil => simp [somePair]
  | cons b bs ih => simp [somePair, List.pairwise_cons, ih]

theorem Form.slotInvalid_false (f : Form) (s : State) : f.slotInvalid s = false ↔ f.SlotPasses s := by
  unfold Form.slotInvalid Form.SlotPasses
  cases h : f.slot <;> simp

theorem Form.lengths_ok (f : Form) : f.lengths.all LenOperand.ok = true ↔ f.LengthsPass := by
  simp only [List.all_eq_true, Form.LengthsPass]
  refine forall₂_congr fun l _ => ?_
  cases h : l.bound <;> simp [LenOperand.ok, h]

theorem Form.range_ok (f : Form) (s : State) :
    (f.bufs.any fun b => decide (s.params.lmWords < b.addr + b.len)) = false ↔ f.RangePasses s := by
  simp [Form.RangePasses, State.Fits]

theorem Form.overlap_ok (f : Form) : somePair f.conflict f.bufs = false ↔ f.OverlapPasses := by
  rw [somePair_false, Form.OverlapPasses]
  refine List.Pairwise.iff fun b c => ?_
  rw [← regionsMeet_iff]
  simp only [Form.conflict, Buf.meets, Bool.and_eq_false_iff, Bool.not_eq_false', Bool.and_eq_true,
    decide_eq_true_eq, Bool.not_eq_true, or_assoc]

theorem fin4_any (p : Fin 4 → Bool) : ([(0 : Fin 4), 1, 2, 3].any p) = false ↔ ∀ k, p k = false := by
  constructor
  · intro h k
    have := List.any_eq_false.1 h k (by fin_cases k <;> simp)
    simpa using this
  · intro h; simp [h]

theorem Form.protection_ok (f : Form) (s : State) :
    (f.bufs.any fun b => b.written && s.clobbers f.own b) = false ↔ f.ProtectionPasses s := by
  simp only [List.any_eq_false, Form.ProtectionPasses]
  refine forall₂_congr fun b _ => ?_
  simp only [Buf.written, State.clobbers, ← regionsMeet_iff, Bool.not_eq_true, Bool.and_eq_false_iff, fin4_any,
    State.protects, decide_eq_false_iff_not, Bool.not_eq_false', decide_eq_true_eq]
  constructor
  · rintro (h | h) hb k hk hv
    · exact absurd hb h
    · rcases h k with h | h | h
      · exact absurd h hk
      · simp [hv] at h
      · exact h
  · intro h
    by_cases hb : b.role = .input
    · exact .inl (by simp [hb])
    · refine .inr fun k => ?_
      by_cases hk : f.own = some k
      · exact .inl hk
      · by_cases hv : (s.slot k).valid = true
        · exact .inr (.inr (h hb k hk hv))
        · exact .inr (.inl (by simpa using hv))

/-- The checks pass exactly when every step of 60_exceptions.md R345 does. -/
theorem Form.firstError_noError (f : Form) (s : State) :
    f.firstError s = .noError ↔ f.CommonPass s ∧ f.value = .noError := by
  rw [Form.CommonPass, ← Form.slotInvalid_false, ← Form.lengths_ok, ← Form.range_ok, ← Form.overlap_ok,
    ← Form.protection_ok]
  unfold Form.firstError
  cases f.slotInvalid s <;> cases f.lengths.all LenOperand.ok <;>
    cases f.bufs.any (fun b => decide (s.params.lmWords < b.addr + b.len)) <;> cases somePair f.conflict f.bufs <;>
    cases f.bufs.any (fun b => b.written && s.clobbers f.own b) <;> simp

/-- When the common checks pass, the code is that of the command's own value checks. -/
theorem Form.firstError_value (f : Form) (s : State) (h : f.CommonPass s) : f.firstError s = f.value := by
  obtain ⟨h1, h2, h3, h4, h5⟩ := h
  rw [← Form.slotInvalid_false] at h1
  rw [← Form.lengths_ok] at h2
  rw [← Form.range_ok] at h3
  rw [← Form.overlap_ok] at h4
  rw [← Form.protection_ok] at h5
  simp [Form.firstError, h1, h2, h3, h4, h5]

/-- What a command can answer: its effect, completed, or its error code with no effect. -/
theorem State.command_cases (s : State) (f : Form) (eff : State) :
    (f.firstError s = .noError ∧ s.command f eff = .next (eff.complete .noError)) ∨
      (f.firstError s ≠ .noError ∧ s.command f eff = .next (s.complete (f.firstError s))) := by
  unfold State.command
  by_cases h : f.firstError s = .noError <;> simp [h]

/-- What one step of a sampling command can answer: an error, waiting, acceptance, rejection. -/
theorem State.sample_cases (s : State) (f : Form) (k : Fin 4) (acc : Bool) (eff : State → State) :
    (f.firstError s ≠ .noError ∧ s.sample f k acc eff = .next (s.complete (f.firstError s))) ∨
      (f.firstError s = .noError ∧ s.rng.length < s.slotN k ∧ s.sample f k acc eff = .next s) ∨
      (f.firstError s = .noError ∧ s.slotN k ≤ s.rng.length ∧ acc = true ∧
        s.sample f k acc eff = .next ((eff (s.takeDraws k)).complete .noError)) ∨
      (f.firstError s = .noError ∧ s.slotN k ≤ s.rng.length ∧ acc = false ∧
        s.sample f k acc eff = .next (s.takeDraws k).retry) := by
  unfold State.sample
  by_cases h : f.firstError s = .noError
  · by_cases hl : s.rng.length < s.slotN k
    · simp [h, hl]
    · cases acc <;> simp [h, hl, Nat.not_lt.1 hl]
  · simp [h]

end Sys2Proof.Machine
end

