-- ==== Sys2Proof/Laws/Exec.lean ====
section
/-! SUPPORT. What executing a command and taking a step can do, said once. -/

namespace Sys2Proof.Machine

/-- The states a command with form `f` can build from `s` before it completes: stores and havocs inside its
written buffers, draws taken, RES written. Slots are untouched. -/
inductive Touches (s : State) (f : Form) : State → Prop where
  | start : Touches s f s
  | store {u : State} (b : Buf) (a n v : Nat) (h : Touches s f u) (hb : b ∈ f.bufs) (hw : b.role ≠ .input)
      (hl : b.addr ≤ a) (hr : a + n ≤ b.addr + b.len) : Touches s f (u.store a n v)
  | havoc {u : State} (b : Buf) (a n : Nat) (h : Touches s f u) (hb : b ∈ f.bufs) (hw : b.role ≠ .input)
      (hl : b.addr ≤ a) (hr : a + n ≤ b.addr + b.len) : Touches s f (u.havoc a n)
  | draws {u : State} (k : Fin 4) (h : Touches s f u) (hk : f.slot = some k) : Touches s f (u.takeDraws k)
  | res {u : State} (v : Nat) (h : Touches s f u) : Touches s f (u.setRes v)

/-- A store of a whole written buffer. -/
theorem Touches.storeBuf {s u : State} {f : Form} (nm : BufName) (r : Role) (a n v : Nat) (h : Touches s f u)
    (hb : ⟨nm, r, a, n⟩ ∈ f.bufs) (hr : r ≠ .input) : Touches s f (u.store a n v) :=
  .store ⟨nm, r, a, n⟩ a n v h hb hr le_rfl le_rfl

/-- A havoc of a whole written buffer. -/
theorem Touches.havocBuf {s u : State} {f : Form} (nm : BufName) (r : Role) (a n : Nat) (h : Touches s f u)
    (hb : ⟨nm, r, a, n⟩ ∈ f.bufs) (hr : r ≠ .input) : Touches s f (u.havoc a n) :=
  .havoc ⟨nm, r, a, n⟩ a n h hb hr le_rfl le_rfl

/-- The entries of a slide table lie in its buffer of `8N` words. -/
theorem Touches.table {s u : State} {f : Form} (nm : BufName) (a n : Nat) (tab : Nat → Nat) (k : Nat)
    (h : Touches s f u) (hb : ⟨nm, .output, a, 8 * n⟩ ∈ f.bufs) (hk : k ≤ 8) :
    Touches s f (u.storeTable a n tab k) := by
  induction k with
  | zero => exact h
  | succ k ih =>
    refine .store ⟨nm, .output, a, 8 * n⟩ _ _ _ (ih (by omega)) hb (fun h => by cases h) (Nat.le_add_right _ _) ?_
    show a + k * n + n ≤ a + 8 * n
    nlinarith

/-- Everything but RES, the memory, the draws and the free counter is as in `s`. -/
theorem Touches.rest {s u : State} {f : Form} (h : Touches s f u) :
    u = { s with res := u.res, lm := u.lm, rng := u.rng, free := u.free } := by
  induction h with
  | start => rfl
  | store _ _ _ _ _ _ _ _ _ ih => rw [ih]; rfl
  | havoc _ _ _ _ _ _ _ _ ih => rw [ih]; rfl
  | draws _ _ _ ih => rw [ih]; rfl
  | res _ _ ih => rw [ih]; rfl

/-- A word outside the written buffers reads as in `s`. -/
theorem Touches.word_outside {s u : State} {f : Form} (h : Touches s f u) (x : Nat) (hx : ¬f.Writes x) :
    u.word x = s.word x := by
  have key : ∀ b ∈ f.bufs, b.role ≠ .input → ∀ a n, b.addr ≤ a → a + n ≤ b.addr + b.len → x < a ∨ a + n ≤ x := by
    intro b hb hw a n hl hr
    by_contra hc
    exact hx ⟨b, hb, hw, by omega, by omega⟩
  induction h with
  | start => rfl
  | store b a n v _ hb hw hl hr ih => rw [State.word_store_outside _ _ _ _ _ (key b hb hw a n hl hr), ih]
  | havoc b a n _ hb hw hl hr ih => rw [State.word_havoc_outside _ _ _ _ (key b hb hw a n hl hr), ih]
  | draws _ _ _ ih => rw [State.takeDraws_word, ih]
  | res _ _ ih => rw [State.setRes_word, ih]

/-- The memory stays in canonical form, given that the written buffers fit, and RES a word. -/
theorem Touches.memorySound {s u : State} {f : Form} (h : Touches s f u) (hr : f.RangePasses s)
    (hs : s.MemorySound) : u.MemorySound := by
  induction h with
  | start => exact hs
  | store b a n v h hb hw hl hr' ih =>
    have hp := congrArg State.params h.rest
    refine ⟨Memory.wf_store _ _ _ ih.1 (State.radix_le _) (State.radix_pos _) ?_, ih.2⟩
    have := hr b hb
    simp only [State.store_params, hp] at *
    omega
  | havoc b a n h hb hw hl hr' ih =>
    have hp := congrArg State.params h.rest
    refine ⟨Memory.wf_havoc _ _ _ ih.1 (State.radix_le _) (State.radix_pos _) ?_, ih.2⟩
    have := hr b hb
    simp only [State.havoc_params, hp] at *
    omega
  | draws _ _ _ ih => exact ih
  | res v _ ih =>
    refine ⟨ih.1, ?_⟩
    rw [State.setRes_res, State.setRes_radix, ofNat_digit _ _ (State.radix_le _) (State.radix_pos _)]
    exact Nat.mod_lt _ (State.radix_pos _)

/-- Command `i` is a sampling command on slot `k` (48_random.md). -/
def Samples (i : Instr) (k : Fin 4) : Prop := i = .rnd k ∨ i = .rndodd k ∨ i = .rndinv k

/-- What executing a command that sets no slot can answer: an error with no other effect, a wait or a rejected
attempt of a sampling command, or completion of a state that only its written buffers, the draws and RES tell from `s`. -/
inductive ExecCase (i : Instr) (s : State) : Out → Prop where
  | error (h : (formOf i s).firstError s ≠ .noError) : ExecCase i s (.next (s.complete ((formOf i s).firstError s)))
  | wait (k : Fin 4) (hk : Samples i k) (h : (formOf i s).firstError s = .noError) (hl : s.rng.length < s.slotN k) :
      ExecCase i s (.next s)
  | reject (k : Fin 4) (hk : Samples i k) (h : (formOf i s).firstError s = .noError)
      (hl : s.slotN k ≤ s.rng.length) :
      ExecCase i s (.next (s.takeDraws k).retry)
  | done (u : State) (h : (formOf i s).firstError s = .noError) (hu : Touches s (formOf i s) u) :
      ExecCase i s (.next (u.complete .noError))

theorem ExecCase.ofCommand {i : Instr} {s : State} {eff : State} (h : Touches s (formOf i s) eff) :
    ExecCase i s (s.command (formOf i s) eff) := by
  rcases s.command_cases (formOf i s) eff with ⟨he, hc⟩ | ⟨he, hc⟩ <;> rw [hc]
  · exact .done eff he h
  · exact .error he

theorem ExecCase.ofSample {i : Instr} {s : State} {k : Fin 4} {acc : Bool} {eff : State → State}
    (hk : Samples i k) (h : Touches s (formOf i s) (eff (s.takeDraws k))) :
    ExecCase i s (s.sample (formOf i s) k acc eff) := by
  rcases s.sample_cases (formOf i s) k acc eff with ⟨he, hc⟩ | ⟨he, hl, hc⟩ | ⟨he, -, -, hc⟩ | ⟨he, hl, -, hc⟩ <;> rw [hc]
  · exact .error he
  · exact .wait k hk he hl
  · exact .done _ he h
  · exact .reject k hk he hl

/-- The effect of a modular command. -/
theorem Touches.residue {s : State} {f : Form} (k : Fin 4) (r v wk wn : Nat)
    (hr : ⟨.R, .output, r, s.slotN k⟩ ∈ f.bufs) (hw : ⟨.WK, .work, wk, wn⟩ ∈ f.bufs) :
    Touches s f (s.residue k r v wk wn) :=
  .res 0 (.havocBuf .WK .work _ _ (.storeBuf .R .output _ _ _ .start hr (by decide)) hw (by decide))

/-- Every command but SETMOD and CTXCLR does one of the four things of `ExecCase`. -/
theorem exec_cases (i : Instr) (s : State) (hi : ∀ k, i ≠ .setmod k ∧ i ≠ .ctxclr k) : ExecCase i s (exec i s) := by
  cases i with
  | setmod k => exact absurd rfl (hi k).1
  | ctxclr k => exact absurd rfl (hi k).2
  | eq | ne | gt | lt | ge | le | eqx | nex | gtx | ltx | gex | lex | tstmsb | tstlsb | clz | ctz | modw =>
    exact .ofCommand (.res _ .start)
  | and | or | xor | add | sub | addx | subx | not | setmsb | setlsb | clrmsb | clrlsb | lshift | rshift | dbl | halve
  | neg =>
    exact .ofCommand (.res _ (.storeBuf .X .inout _ _ _ .start (by simp [formOf, formInPlace, formInPlaceX, formUnary,
      Form.plain]) (by decide)))
  | setmul => exact .ofCommand (.res _ (.storeBuf .R .output _ _ _ .start (by simp [formOf, formMulWord, Form.plain])
      (by decide)))
  | addmul => exact .ofCommand (.res _ (.storeBuf .R .inout _ _ _ .start (by simp [formOf, formMulWord, Form.plain])
      (by decide)))
  | mul | sqr | copy =>
    exact .ofCommand (.res _ (.storeBuf .R .output _ _ _ .start (by simp [formOf, formMul, formSqr, formCopy,
      Form.plain]) (by decide)))
  | zero => exact .ofCommand (.res _ (.storeBuf .X .output _ _ _ .start (by simp [formOf, formZero, Form.plain])
      (by decide)))
  | gcd =>
    exact .ofCommand (.res _ (.havocBuf .WK .work _ _ (.storeBuf .R .output _ _ _ .start
      (by simp [formOf, formGcd, Form.plain]) (by decide)) (by simp [formOf, formGcd, Form.plain]) (by decide)))
  | divmod =>
    exact .ofCommand (.res _ (.havocBuf .WK .work _ _ (.storeBuf .R .output _ _ _ (.storeBuf .Q .output _ _ _ .start
      (by simp [formOf, formDivmod, Form.plain]) (by decide)) (by simp [formOf, formDivmod, Form.plain]) (by decide))
      (by simp [formOf, formDivmod, Form.plain]) (by decide)))
  | reduce k | addmod k | submod k | mulmod k | sqrmod k | powmod k | powsld k | pow2 k =>
    exact .ofCommand (.residue k _ _ _ _
      (by simp [formOf, formReduce, formModPair, formSqrmod, formPowmod, formPowsld, formPow2, Form.slotted])
      (by simp [formOf, formReduce, formModPair, formSqrmod, formPowmod, formPowsld, formPow2, Form.slotted]))
  | invmod k =>
    refine .ofCommand ?_
    have hw : (⟨.WK, .work, s.arg 3, 6 * s.slotN k + 6⟩ : Buf) ∈ (formOf (.invmod k) s).bufs := by
      simp [formOf, formInvmod, Form.slotted]
    have hr : (⟨.R, .output, s.arg 2, s.slotN k⟩ : Buf) ∈ (formOf (.invmod k) s).bufs := by
      simp [formOf, formInvmod, Form.slotted]
    split
    · exact .res _ (.havocBuf .WK .work _ _ (.storeBuf .R .output _ _ _ .start hr (by decide)) hw (by decide))
    · exact .res _ (.havocBuf .WK .work _ _ .start hw (by decide))
  | slide k =>
    exact .ofCommand (.res _ (.havocBuf .WK .work _ _ (.table .T _ _ _ 8 .start
      (by simp [formOf, formSlide, Form.slotted]) le_rfl) (by simp [formOf, formSlide, Form.slotted]) (by decide)))
  | rnd k =>
    have hr : (⟨.R, .output, s.arg 0, s.slotN k⟩ : Buf) ∈ (formRnd s k 4).bufs := by simp [formRnd, Form.slotted]
    show ExecCase (.rnd k) s (execRnd k s)
    unfold execRnd
    refine .ofSample (i := .rnd k) (s := s) (k := k) (.inl rfl) ?_
    exact .res _ (.storeBuf .R .output _ _ _ (.draws k .start rfl) hr (by decide))
  | rndodd k =>
    have hr : (⟨.R, .output, s.arg 0, s.slotN k⟩ : Buf) ∈ (formRnd s k 5).bufs := by simp [formRnd, Form.slotted]
    show ExecCase (.rndodd k) s (execRndodd k s)
    unfold execRndodd
    refine .ofSample (i := .rndodd k) (s := s) (k := k) (.inr (.inl rfl)) ?_
    exact .res _ (.storeBuf .R .output _ _ _ (.draws k .start rfl) hr (by decide))
  | rndinv k =>
    have hr : (⟨.R, .output, s.arg 0, s.slotN k⟩ : Buf) ∈ (formRndinv s k).bufs := by simp [formRndinv, Form.slotted]
    have hi : (⟨.RI, .output, s.arg 1, s.slotN k⟩ : Buf) ∈ (formRndinv s k).bufs := by simp [formRndinv, Form.slotted]
    have hw : (⟨.WK, .work, s.arg 2, 6 * s.slotN k + 6⟩ : Buf) ∈ (formRndinv s k).bufs := by
      simp [formRndinv, Form.slotted]
    show ExecCase (.rndinv k) s (execRndinv k s)
    unfold execRndinv
    refine .ofSample (i := .rndinv k) (s := s) (k := k) (.inr (.inr rfl)) ?_
    exact .res _ (.havocBuf .WK .work _ _ (.storeBuf .RI .output _ _ _ (.storeBuf .R .output _ _ _
      (.draws k .start rfl) hr (by decide)) hi (by decide)) hw (by decide))

/-- The state SETMOD builds before it completes (46_barrett.md R250). -/
def State.setmodBuilt (s : State) (k : Fin 4) : State :=
  ((((s.store (s.arg 2) (s.arg 1) (s.val (s.arg 0) (s.arg 1))).store (s.arg 2 + s.arg 1) (s.arg 1 + 1)
    (s.radix ^ (2 * s.arg 1) / s.val (s.arg 0) (s.arg 1))).havoc (s.arg 3) (5 * s.arg 1 + 4)).setSlot k
      { base := s.latchedArgs.get 2, n := s.latchedArgs.get 1, valid := true }).setRes 0

/-- SETMOD's built state differs from `s` in the memory, the free counter, the slots and RES only. -/
theorem State.setmodBuilt_rest (s : State) (k : Fin 4) :
    s.setmodBuilt k = { s with lm := (s.setmodBuilt k).lm, free := (s.setmodBuilt k).free,
                               ctx := (s.setmodBuilt k).ctx, res := (s.setmodBuilt k).res } := by
  simp only [State.setmodBuilt, State.setRes, State.setSlot, State.havoc, State.store]

/-- SETMOD sets slot `k` and no other (46_barrett.md R254). -/
theorem State.setmodBuilt_ctx (s : State) (k : Fin 4) : (s.setmodBuilt k).ctx =
    s.ctx.set { base := s.latchedArgs.get 2, n := s.latchedArgs.get 1, valid := true } k := by
  simp [State.setmodBuilt]

/-- SETMOD writes its region and its workspace only (46_barrett.md R265). -/
theorem State.setmodBuilt_word (s : State) (k : Fin 4) (a : Nat) (hr : a < s.arg 2 ∨ s.arg 2 + (2 * s.arg 1 + 1) ≤ a)
    (hw : a < s.arg 3 ∨ s.arg 3 + (5 * s.arg 1 + 4) ≤ a) : (s.setmodBuilt k).word a = s.word a := by
  rw [State.setmodBuilt, State.setRes_word, State.setSlot_word, State.word_havoc_outside _ _ _ _ hw,
    State.word_store_outside _ _ _ _ _ (by omega), State.word_store_outside _ _ _ _ _ (by omega)]

/-- SETMOD completes with its effect or ends with an error and no other effect. -/
theorem setmod_cases (k : Fin 4) (s : State) :
    ((formSetmod s k).firstError s = .noError ∧ exec (.setmod k) s = .next ((s.setmodBuilt k).complete .noError)) ∨
      ((formSetmod s k).firstError s ≠ .noError ∧
        exec (.setmod k) s = .next (s.complete ((formSetmod s k).firstError s))) :=
  s.command_cases (formSetmod s k) (s.setmodBuilt k)

/-- CTXCLR always completes (46_barrett.md R255). -/
theorem ctxclr_eq (k : Fin 4) (s : State) :
    exec (.ctxclr k) s = .next (((s.setSlot k .empty).setRes 0).complete .noError) := rfl

/-- Every command is SETMOD, CTXCLR, or one of those of `exec_cases`. -/
theorem exec_kinds (i : Instr) :
    (∃ k, i = .setmod k) ∨ (∃ k, i = .ctxclr k) ∨ ∀ k, i ≠ .setmod k ∧ i ≠ .ctxclr k := by
  cases i with
  | setmod k => exact .inl ⟨k, rfl⟩
  | ctxclr k => exact .inr (.inl ⟨k, rfl⟩)
  | _ => exact .inr (.inr fun k => ⟨by simp, by simp⟩)

/-- To show something of every next state of `exec`, show it of the six states a command can end in: SETMOD's, one
with an error, CTXCLR's, a waiting one, a rejected attempt's, and a completed one. -/
theorem exec_elim {i : Instr} {s t : State} {P : State → Prop} (h : exec i s = .next t)
    (set : ∀ k, i = .setmod k → (formSetmod s k).firstError s = .noError → P ((s.setmodBuilt k).complete .noError))
    (error : (formOf i s).firstError s ≠ .noError → P (s.complete ((formOf i s).firstError s)))
    (clear : ∀ k, i = .ctxclr k → P (((s.setSlot k .empty).setRes 0).complete .noError))
    (wait : ∀ k, Samples i k → (formOf i s).firstError s = .noError → P s)
    (reject : ∀ k, Samples i k → (formOf i s).firstError s = .noError → P (s.takeDraws k).retry)
    (done : ∀ u, (∀ k, i ≠ .setmod k ∧ i ≠ .ctxclr k) → (formOf i s).firstError s = .noError →
      Touches s (formOf i s) u → P (u.complete .noError)) : P t := by
  have same {a : State} (h' : exec i s = .next a) : t = a := Host.Outcome.next.inj (h.symm.trans h')
  rcases exec_kinds i with ⟨k, rfl⟩ | ⟨k, rfl⟩ | hi
  · rcases setmod_cases k s with ⟨h1, he⟩ | ⟨h1, he⟩
    · exact same he ▸ set k rfl h1
    · exact same he ▸ error h1
  · exact same (ctxclr_eq k s) ▸ clear k rfl
  · have hc := exec_cases i s hi
    rw [h] at hc
    generalize ho : (Host.Outcome.next t : Out) = o at hc
    cases hc with
    | error hf => exact Host.Outcome.next.inj ho ▸ error hf
    | wait k hk hf hl => exact Host.Outcome.next.inj ho ▸ wait k hk hf
    | reject k hk hf hl => exact Host.Outcome.next.inj ho ▸ reject k hk hf
    | done u hf hu => exact Host.Outcome.next.inj ho ▸ done u hi hf hu

/-- What one step can answer. -/
theorem step_cases {s t : State} (h : step s = .next t) :
    (∃ x xs, s.pending = none ∧ s.held = x :: xs ∧ t = { s with held := xs }.lmPerform x) ∨
      (∃ x ts, s.turns = .host x :: ts ∧ { s with turns := ts }.hostAccess x = .next t) ∨
      (∃ w ts, s.turns = .random w :: ts ∧ t = { s with turns := ts }.deliver w) ∨
      (∃ ts, s.turns = .powerOn :: ts ∧ t = { s with turns := ts }.powerOn) ∨
      (∃ ts, (s.turns = .unit :: ts ∨ (s.turns = [] ∧ ts = [])) ∧
        ((s.pending = none ∧ t = { s with turns := ts }) ∨
          (∃ p e, s.pending = some p ∧ decode p.cmd = .error e ∧
            t = { s with turns := ts }.complete (.ofDecode e)) ∨
          ∃ p i, s.pending = some p ∧ decode p.cmd = .ok i ∧ exec i { s with turns := ts } = .next t)) := by
  have turn : step s = (match s.nextTurn with
      | .release x s' => .next (s'.lmPerform x)
      | .unit s' => s'.unitStep
      | .host x s' => s'.hostAccess x
      | .random w s' => .next (s'.deliver w)
      | .powerOn s' => .next s'.powerOn) ∨
      ∃ x xs, s.pending = none ∧ s.held = x :: xs ∧ step s = .next ({ s with held := xs }.lmPerform x) := by
    unfold step State.nextEvent State.busy
    cases hp : s.pending with
    | some p => exact .inl rfl
    | none =>
      cases hh : s.held with
      | nil => exact .inl rfl
      | cons x xs => exact .inr ⟨x, xs, rfl, rfl, rfl⟩
  have unit : ∀ ts, ({ s with turns := ts } : State).unitStep = .next t →
      (s.pending = none ∧ t = { s with turns := ts }) ∨
          (∃ p e, s.pending = some p ∧ decode p.cmd = .error e ∧
            t = { s with turns := ts }.complete (.ofDecode e)) ∨
          ∃ p i, s.pending = some p ∧ decode p.cmd = .ok i ∧ exec i { s with turns := ts } = .next t := by
    intro ts hu
    unfold State.unitStep State.pendingInstr at hu
    cases hp : s.pending with
    | none => simp only [hp] at hu; exact .inl ⟨rfl, (Host.Outcome.next.inj hu).symm⟩
    | some p =>
      simp only [hp] at hu
      cases hd : decode p.cmd with
      | error e => simp only [hd] at hu; exact .inr (.inl ⟨p, e, rfl, hd, (Host.Outcome.next.inj hu).symm⟩)
      | ok i => simp only [hd] at hu; exact .inr (.inr ⟨p, i, rfl, hd, hu⟩)
  rcases turn with hn | ⟨x, xs, hp, hh, hn⟩
  · rw [hn] at h
    unfold State.nextTurn at h
    cases ht : s.turns with
    | nil =>
      simp only [ht] at h
      have e : s = { s with turns := [] } := by rw [← ht]
      exact .inr (.inr (.inr (.inr ⟨[], .inr ⟨rfl, rfl⟩, unit [] (e ▸ h)⟩)))
    | cons hd ts =>
      simp only [ht] at h
      cases hd with
      | unit => exact .inr (.inr (.inr (.inr ⟨ts, .inl rfl, unit ts h⟩)))
      | host x => exact .inr (.inl ⟨x, ts, rfl, h⟩)
      | random w => exact .inr (.inr (.inl ⟨w, ts, rfl, (Host.Outcome.next.inj h).symm⟩))
      | powerOn => exact .inr (.inr (.inr (.inl ⟨ts, rfl, (Host.Outcome.next.inj h).symm⟩)))
  · exact .inl ⟨x, xs, hp, hh, (Host.Outcome.next.inj (hn ▸ h)).symm⟩

end Sys2Proof.Machine
end

