-- ==== Sys2Proof/Laws/Buffers.lean ====
section
/-! SUPPORT. How the checks end a command: the error code of the first step that fails, the command that ends with
it, and the buffer checks of a command from those of its form. -/

namespace Sys2Proof.Machine

theorem Form.firstError_slot {f : Form} {s : State} (h : ¬f.SlotPasses s) : f.firstError s = .ctxInvalid := by
  rw [← Form.slotInvalid_false, Bool.not_eq_false] at h
  simp only [Form.firstError, h, if_true]

theorem Form.firstError_length {f : Form} {s : State} (hs : f.SlotPasses s) (h : ¬f.LengthsPass) :
    f.firstError s = .badLength := by
  rw [← Form.slotInvalid_false] at hs
  rw [← Form.lengths_ok, Bool.not_eq_true] at h
  simp [Form.firstError, hs, h]

theorem Form.firstError_range {f : Form} {s : State} (hs : f.SlotPasses s) (hl : f.LengthsPass)
    (h : ¬f.RangePasses s) : f.firstError s = .outOfRange := by
  rw [← Form.slotInvalid_false] at hs
  rw [← Form.lengths_ok] at hl
  rw [← Form.range_ok, Bool.not_eq_false] at h
  simp only [Form.firstError, hs, hl, h]; simp

theorem Form.firstError_overlap {f : Form} {s : State} (hs : f.SlotPasses s) (hl : f.LengthsPass)
    (hr : f.RangePasses s) (h : ¬f.OverlapPasses) : f.firstError s = .overlap := by
  rw [← Form.slotInvalid_false] at hs
  rw [← Form.lengths_ok] at hl
  rw [← Form.range_ok] at hr
  rw [← Form.overlap_ok, Bool.not_eq_false] at h
  simp only [Form.firstError, hs, hl, hr, h]; simp

theorem Form.firstError_protection {f : Form} {s : State} (hs : f.SlotPasses s) (hl : f.LengthsPass)
    (hr : f.RangePasses s) (ho : f.OverlapPasses) (h : ¬f.ProtectionPasses s) : f.firstError s = .ctxClobber := by
  rw [← Form.slotInvalid_false] at hs
  rw [← Form.lengths_ok] at hl
  rw [← Form.range_ok] at hr
  rw [← Form.overlap_ok] at ho
  rw [← Form.protection_ok, Bool.not_eq_false] at h
  simp only [Form.firstError, hs, hl, hr, ho, h]; simp

theorem State.complete_failed (s : State) {e : ErrorCode} (he : e ≠ .noError) : (s.complete e).Failed s e := by
  simp [State.Failed, State.complete, he]

/-- A command whose checks find an error ends with it and no other effect (60_exceptions.md R343, R344). CTXCLR makes
no check beyond those of its word. -/
theorem exec_fails {i : Instr} {s : State} {e : ErrorCode} (hi : ∀ k, i ≠ .ctxclr k) (he : e ≠ .noError)
    (h : (formOf i s).firstError s = e) : ∃ t, exec i s = .next t ∧ t.Failed s e := by
  subst h
  rcases exec_kinds i with ⟨k, rfl⟩ | ⟨k, rfl⟩ | hk
  · rcases setmod_cases k s with ⟨h, -⟩ | ⟨-, h⟩
    · exact absurd h he
    · exact ⟨_, h, s.complete_failed he⟩
  · exact absurd rfl (hi k)
  · have h := exec_cases i s hk
    generalize exec i s = o at h
    cases h with
    | error _ => exact ⟨_, rfl, s.complete_failed he⟩
    | done _ h _ => exact absurd h he
    | wait _ _ h => exact absurd h he
    | reject _ _ h => exact absurd h he

theorem regionsMeet_comm (a n c m : Nat) : regionsMeet a n c m = regionsMeet c m a n := by
  simp [regionsMeet, max_comm, min_comm]

theorem meet_iff (b c : Nat × Nat) : Meet b c ↔ regionsMeet b.1 b.2 c.1 c.2 = true := (regionsMeet_iff ..).symm

/-- A written buffer on the region of a valid slot that is not the command's own fails the protection. -/
theorem Form.protection_fails {f : Form} {s : State} {outs : List (Nat × Nat)}
    (h : ∀ b ∈ outs, ∃ c ∈ f.bufs, c.role ≠ .input ∧ c.addr = b.1 ∧ c.len = b.2)
    (hm : ∃ b ∈ outs, s.MeetsRegion f.own b) : ¬f.ProtectionPasses s := by
  obtain ⟨b, hb, k, hk, hv, x, hx⟩ := hm
  obtain ⟨c, hc, hr, ha, hl⟩ := h b hb
  exact fun hp => hp c hc hr k hk hv ⟨x, by rw [ha, hl]; exact hx⟩

/-- The buffer checks of commands, from what their forms hold: the slot and length checks pass, the buffers named are
the form's, and `refused` are the overlaps the form does not permit. -/
theorem State.bufferChecks_of {s : State} {own : Option (Fin 4)} {is : List Instr} {ins outs : List (Nat × Nat)}
    {refused : Prop}
    (h : ∀ i ∈ is, (∀ k, i ≠ .ctxclr k) ∧ (formOf i s).own = own ∧ (formOf i s).SlotPasses s ∧
      (formOf i s).LengthsPass ∧ ((∀ b ∈ ins ++ outs, s.Fits b.1 b.2) ↔ (formOf i s).RangePasses s) ∧
        (somePair (formOf i s).conflict (formOf i s).bufs = true ↔ refused) ∧
          ∀ b ∈ outs, ∃ c ∈ (formOf i s).bufs, c.role ≠ .input ∧ c.addr = b.1 ∧ c.len = b.2) :
    s.BufferChecks own is ins outs refused := by
  intro i hi
  obtain ⟨hc, rfl, hs, hl, hr, ho, hw⟩ := h i hi
  have hov : (formOf i s).OverlapPasses ↔ ¬refused := by rw [← Form.overlap_ok, ← ho, Bool.not_eq_true]
  exact ⟨fun hf => exec_fails hc (by decide) (Form.firstError_range hs hl fun hp => hf (hr.2 hp)),
    fun hf hx => exec_fails hc (by decide) (Form.firstError_overlap hs hl (hr.1 hf) fun hp => hov.1 hp hx),
    fun hf hx hm => exec_fails hc (by decide)
      (Form.firstError_protection hs hl (hr.1 hf) (hov.2 hx) (Form.protection_fails hw hm))⟩

end Sys2Proof.Machine
end

