-- ==== Sys2Proof/Laws/Forms.lean ====
section
/-! SUPPORT. The conditions of Safety.lean, one per shape of operands, are enough for every check to pass. -/

set_option linter.unusedTactic false
set_option linter.unreachableTactic false
set_option linter.unusedSimpArgs false

namespace Sys2Proof.Machine

/-- A clear buffer shares no word with the region of a valid slot. -/
theorem clear_spec {s : State} {a n : Nat} (h : s.Clear a n) :
    ∀ k, (s.slot k).valid = true → ∀ x, a ≤ x → x < a + n → s.slotBase k ≤ x →
      s.slotBase k + (2 * s.slotN k + 1) ≤ x := by
  intro k hv
  have := h k hv
  unfold Apart at this
  intros
  omega

/-- The same, the command's own slot excepted. -/
theorem clearBut_spec {s : State} {a n : Nat} {k : Fin 4} (h : s.ClearBut k a n) :
    ∀ j, ¬k = j → (s.slot j).valid = true → ∀ x, a ≤ x → x < a + n → s.slotBase j ≤ x →
      s.slotBase j + (2 * s.slotN j + 1) ≤ x := by
  intro j hj hv
  have := h j (fun e => hj e.symm) hv
  unfold Apart at this
  intros
  omega

theorem compare_passes (s : State) (h : s.CompareReady) :
    (formCompare s).firstError s = .noError := by
  obtain ⟨h1, h2, h3⟩ := h
  rw [Form.firstError_noError]
  simp [Form.CommonPass, Form.SlotPasses, Form.LengthsPass, Form.RangePasses, Form.OverlapPasses, Form.ProtectionPasses,
    formCompare, Form.slotted, Form.plain, lenAny, lenUpTo, Form.permitted, Permit.admits]
  simp only [State.Fits] at h1 h2 h3
  (repeat' apply And.intro) <;> (first
    | omega | exact clear_spec ‹_› | exact clearBut_spec ‹_› | (intros; omega) | exact .inl (by intros; omega)
    | exact .inr (by omega) | exact .inr ⟨by omega, by omega⟩ | assumption)

theorem compareX_passes (s : State) (h : s.CompareXReady) :
    (formCompareX s).firstError s = .noError := by
  obtain ⟨h1, h2, h3, h4⟩ := h
  rw [Form.firstError_noError]
  simp [Form.CommonPass, Form.SlotPasses, Form.LengthsPass, Form.RangePasses, Form.OverlapPasses, Form.ProtectionPasses,
    formCompareX, Form.slotted, Form.plain, lenAny, lenUpTo, Form.permitted, Permit.admits]
  simp only [State.Fits] at h1 h2 h3 h4
  (repeat' apply And.intro) <;> (first
    | omega | exact clear_spec ‹_› | exact clearBut_spec ‹_› | (intros; omega) | exact .inl (by intros; omega)
    | exact .inr (by omega) | exact .inr ⟨by omega, by omega⟩ | assumption)

theorem inPlace_passes (s : State) (h : s.InPlaceReady) :
    (formInPlace s).firstError s = .noError := by
  obtain ⟨h1, h2, h3, h4, h5⟩ := h
  rw [Form.firstError_noError]
  simp [Form.CommonPass, Form.SlotPasses, Form.LengthsPass, Form.RangePasses, Form.OverlapPasses, Form.ProtectionPasses,
    formInPlace, Form.slotted, Form.plain, lenAny, lenUpTo, Form.permitted, Permit.admits]
  simp only [State.Fits, Apart] at h1 h2 h3 h4
  (repeat' apply And.intro) <;> try (first
    | omega | exact clear_spec ‹_› | exact clearBut_spec ‹_› | (intros; omega) | exact .inl (by intros; omega)
    | exact .inr (by omega) | exact .inr ⟨by omega, by omega⟩ | assumption)
  rcases h4 with h4 | h4
  · right; omega
  · left; intros; omega

theorem unary_passes (s : State) (h : s.UnaryReady) :
    (formUnary s).firstError s = .noError := by
  obtain ⟨h1, h2, h5⟩ := h
  rw [Form.firstError_noError]
  simp [Form.CommonPass, Form.SlotPasses, Form.LengthsPass, Form.RangePasses, Form.OverlapPasses, Form.ProtectionPasses,
    formUnary, Form.slotted, Form.plain, lenAny, lenUpTo, Form.permitted, Permit.admits]
  simp only [State.Fits, Apart] at h1 h2
  (repeat' apply And.intro) <;> (first
    | omega | exact clear_spec ‹_› | exact clearBut_spec ‹_› | (intros; omega) | exact .inl (by intros; omega)
    | exact .inr (by omega) | exact .inr ⟨by omega, by omega⟩ | assumption)

theorem divmod_passes (s : State) (h : s.DivmodReady) :
    (formDivmod s).firstError s = .noError := by
  obtain ⟨h1, h2, h3, h4, h5, h6, h7, h8, h9, h10, h11, h12, h13, h14, h15, h16, h17, h18, h19, h20, h21⟩ := h
  rw [Form.firstError_noError]
  simp [Form.CommonPass, Form.SlotPasses, Form.LengthsPass, Form.RangePasses, Form.OverlapPasses, Form.ProtectionPasses,
    formDivmod, Form.slotted, Form.plain, lenAny, lenUpTo, Form.permitted, Permit.admits]
  simp only [State.Fits, Apart] at h1 h2 h3 h4 h5 h6 h7 h8 h9 h10 h11 h12 h13 h14 h15 h16 h17
  (repeat' apply And.intro) <;> (first
    | omega | exact clear_spec ‹_› | exact clearBut_spec ‹_› | (intros; omega) | exact .inl (by intros; omega)
    | exact .inr (by omega) | exact .inr ⟨by omega, by omega⟩ | assumption)

theorem gcd_passes (s : State) (h : s.GcdReady) :
    (formGcd s).firstError s = .noError := by
  obtain ⟨h1, h2, h3, h4, h5, h6, h7, h8, h9, h10⟩ := h
  rw [Form.firstError_noError]
  simp [Form.CommonPass, Form.SlotPasses, Form.LengthsPass, Form.RangePasses, Form.OverlapPasses, Form.ProtectionPasses,
    formGcd, Form.slotted, Form.plain, lenAny, lenUpTo, Form.permitted, Permit.admits]
  simp only [State.Fits, Apart] at h1 h2 h3 h4 h5 h6 h7 h8
  (repeat' apply And.intro) <;> (first
    | omega | exact clear_spec ‹_› | exact clearBut_spec ‹_› | (intros; omega) | exact .inl (by intros; omega)
    | exact .inr (by omega) | exact .inr ⟨by omega, by omega⟩ | assumption)

theorem setmod_passes (s : State) (k : Fin 4) (h : s.SetmodReady k) :
    (formSetmod s k).firstError s = .noError := by
  obtain ⟨h1, h2, h3, h4, h5, h6, h7, h8, h9, h10, h11⟩ := h
  rw [Form.firstError_noError]
  simp [Form.CommonPass, Form.SlotPasses, Form.LengthsPass, Form.RangePasses, Form.OverlapPasses, Form.ProtectionPasses,
    formSetmod, Form.slotted, Form.plain, lenAny, lenUpTo, Form.permitted, Permit.admits, modulusOk]
  simp only [State.Fits, Apart] at h1 h2 h3 h4 h5 h6 h7
  (repeat' apply And.intro) <;> try (first
    | omega | exact clear_spec ‹_› | exact clearBut_spec ‹_› | (intros; omega) | exact .inl (by intros; omega)
    | exact .inr (by omega) | exact .inr ⟨by omega, by omega⟩ | assumption)
  rcases h5 with h5 | h5
  · right; omega
  · left; intros; omega

theorem modPair_passes (s : State) (k : Fin 4) (h : s.ModPairReady k) :
    (formModPair s k).firstError s = .noError := by
  obtain ⟨⟨h1, -⟩, h2, h3, h4, h5, h6, h7, h8, h9, h10, h11, h12, h13,h14⟩ := h
  rw [Form.firstError_noError]
  simp [Form.CommonPass, Form.SlotPasses, Form.LengthsPass, Form.RangePasses, Form.OverlapPasses, Form.ProtectionPasses,
    formModPair, Form.slotted, Form.plain, lenAny, lenUpTo, Form.permitted, Permit.admits]
  simp only [State.Fits, Apart] at h2 h3 h4 h5 h6 h7 h8 h9 h10 h11 h12
  (repeat' apply And.intro) <;> (first
    | omega | exact clear_spec ‹_› | exact clearBut_spec ‹_› | (intros; omega) | exact .inl (by intros; omega)
    | exact .inr (by omega) | exact .inr ⟨by omega, by omega⟩ | assumption)

theorem reduce_passes (s : State) (k : Fin 4) (h : s.OneInputReady k (2 * s.slotN k) (s.arg 2) (s.arg 3) (2 * s.slotN k + 2)) :
    (formReduce s k).firstError s = .noError := by
  obtain ⟨⟨h1, -⟩, h2, h3, h4, h5, h6, h7, h8, h9, h10⟩ := h
  rw [Form.firstError_noError]
  simp [Form.CommonPass, Form.SlotPasses, Form.LengthsPass, Form.RangePasses, Form.OverlapPasses, Form.ProtectionPasses,
    formReduce, Form.slotted, Form.plain, lenAny, lenUpTo, Form.permitted, Permit.admits]
  simp only [State.Fits, Apart] at h2 h3 h4 h5 h6 h7 h8
  (repeat' apply And.intro) <;> (first
    | omega | exact clear_spec ‹_› | exact clearBut_spec ‹_› | (intros; omega) | exact .inl (by intros; omega)
    | exact .inr (by omega) | exact .inr ⟨by omega, by omega⟩ | assumption)

theorem invmod_passes (s : State) (k : Fin 4) (h : s.OneInputReady k (s.slotN k) (s.arg 2) (s.arg 3) (6 * s.slotN k + 6)) (ho : s.modulus k % 2 = 1) :
    (formInvmod s k).firstError s = .noError := by
  obtain ⟨⟨h1, -⟩, h2, h3, h4, h5, h6, h7, h8, h9, h10⟩ := h
  rw [Form.firstError_noError]
  simp [Form.CommonPass, Form.SlotPasses, Form.LengthsPass, Form.RangePasses, Form.OverlapPasses, Form.ProtectionPasses,
    formInvmod, Form.slotted, Form.plain, lenAny, lenUpTo, Form.permitted, Permit.admits]
  simp only [State.Fits, Apart, oddModulus] at h2 h3 h4 h5 h6 h7 h8 ⊢
  (repeat' apply And.intro) <;> (try simp [ho]) <;> (first
    | omega | exact clear_spec ‹_› | exact clearBut_spec ‹_› | (intros; omega) | exact .inl (by intros; omega)
    | exact .inr (by omega) | exact .inr ⟨by omega, by omega⟩ | assumption)

theorem rndinv_passes (s : State) (k : Fin 4) (h : s.RndinvReady k) :
    (formRndinv s k).firstError s = .noError := by
  obtain ⟨⟨h1, -⟩, h2, h3, h4, h5, h6, h7, h8, h9, h10, h11, h12⟩ := h
  rw [Form.firstError_noError]
  simp [Form.CommonPass, Form.SlotPasses, Form.LengthsPass, Form.RangePasses, Form.OverlapPasses, Form.ProtectionPasses,
    formRndinv, Form.slotted, Form.plain, lenAny, lenUpTo, Form.permitted, Permit.admits]
  simp only [State.Fits, Apart, oddModulus, rangeCheck] at h2 h3 h4 h5 h6 h7 ⊢
  (repeat' apply And.intro) <;> (try simp [h11, Nat.not_lt.2 h12]) <;> (first
    | omega | exact clear_spec ‹_› | exact clearBut_spec ‹_› | (intros; omega) | exact .inl (by intros; omega)
    | exact .inr (by omega) | exact .inr ⟨by omega, by omega⟩ | assumption)

theorem slide_passes (s : State) (k : Fin 4) (h : s.SlideReady k) :
    (formSlide s k).firstError s = .noError := by
  obtain ⟨⟨h1, -⟩, h2, h3, h4, h5, h6, h7, h8, h9, h10, h11⟩ := h
  rw [Form.firstError_noError]
  simp [Form.CommonPass, Form.SlotPasses, Form.LengthsPass, Form.RangePasses, Form.OverlapPasses, Form.ProtectionPasses,
    formSlide, Form.slotted, Form.plain, lenAny, lenUpTo, Form.permitted, Permit.admits]
  simp only [State.Fits, Apart] at h2 h3 h4 h5 h6 h7 h8 h9
  (repeat' apply And.intro) <;> (first
    | omega | exact clear_spec ‹_› | exact clearBut_spec ‹_› | (intros; omega) | exact .inl (by intros; omega)
    | exact .inr (by omega) | exact .inr ⟨by omega, by omega⟩ | assumption)

theorem powmod_passes (s : State) (k : Fin 4) (h : s.PowmodReady k) :
    (formPowmod s k).firstError s = .noError := by
  obtain ⟨⟨h1, -⟩, h2, h3, h4, h5, h6, h7, h8, h9, h10, h11, h12, h13⟩ := h
  rw [Form.firstError_noError]
  simp [Form.CommonPass, Form.SlotPasses, Form.LengthsPass, Form.RangePasses, Form.OverlapPasses, Form.ProtectionPasses,
    formPowmod, Form.slotted, Form.plain, lenAny, lenUpTo, Form.permitted, Permit.admits]
  simp only [State.Fits, Apart] at h2 h3 h4 h5 h6 h7 h8 h9 h10 h11
  (repeat' apply And.intro) <;> (first
    | omega | exact clear_spec ‹_› | exact clearBut_spec ‹_› | (intros; omega) | exact .inl (by intros; omega)
    | exact .inr (by omega) | exact .inr ⟨by omega, by omega⟩ | assumption)

theorem powsld_passes (s : State) (k : Fin 4) (h : s.PowsldReady k) :
    (formPowsld s k).firstError s = .noError := by
  obtain ⟨⟨h1, -⟩, h2, h3, h4, h5, h6, h7, h8, h9, h10, h11⟩ := h
  rw [Form.firstError_noError]
  simp [Form.CommonPass, Form.SlotPasses, Form.LengthsPass, Form.RangePasses, Form.OverlapPasses, Form.ProtectionPasses,
    formPowsld, Form.slotted, Form.plain, lenAny, lenUpTo, Form.permitted, Permit.admits]
  simp only [State.Fits, Apart] at h2 h3 h4 h5 h6 h7 h8 h9
  (repeat' apply And.intro) <;> (first
    | omega | exact clear_spec ‹_› | exact clearBut_spec ‹_› | (intros; omega) | exact .inl (by intros; omega)
    | exact .inr (by omega) | exact .inr ⟨by omega, by omega⟩ | assumption)

theorem pow2_passes (s : State) (k : Fin 4) (h : s.Pow2Ready k) :
    (formPow2 s k).firstError s = .noError := by
  obtain ⟨⟨h1, -⟩, h2, h3, h4, h5, h6, h7, h8, h9⟩ := h
  rw [Form.firstError_noError]
  simp [Form.CommonPass, Form.SlotPasses, Form.LengthsPass, Form.RangePasses, Form.OverlapPasses, Form.ProtectionPasses,
    formPow2, Form.slotted, Form.plain, lenAny, lenUpTo, Form.permitted, Permit.admits]
  simp only [State.Fits, Apart] at h2 h3 h4 h5 h6 h7
  (repeat' apply And.intro) <;> (first
    | omega | exact clear_spec ‹_› | exact clearBut_spec ‹_› | (intros; omega) | exact .inl (by intros; omega)
    | exact .inr (by omega) | exact .inr ⟨by omega, by omega⟩ | assumption)

theorem rnd_passes (s : State) (k : Fin 4) (l : Nat) (h : s.RndReady k l) :
    (formRnd s k l).firstError s = .noError := by
  obtain ⟨⟨h1, -⟩, h2, h3, h4⟩ := h
  rw [Form.firstError_noError]
  simp [Form.CommonPass, Form.SlotPasses, Form.LengthsPass, Form.RangePasses, Form.OverlapPasses, Form.ProtectionPasses,
    formRnd, Form.slotted, Form.plain, lenAny, lenUpTo, Form.permitted, Permit.admits]
  simp only [State.Fits, rangeCheck] at h2 ⊢
  (repeat' apply And.intro) <;> (try simp [Nat.not_lt.2 h4]) <;> (first
    | omega | exact clear_spec ‹_› | exact clearBut_spec ‹_› | (intros; omega) | exact .inl (by intros; omega)
    | exact .inr (by omega) | exact .inr ⟨by omega, by omega⟩ | assumption)

theorem mulWord_passes (s : State) (r : Role) (hr : r ≠ .input) (h : s.MulWordReady) :
    (formMulWord s r).firstError s = .noError := by
  obtain ⟨h1, h2, h3, h4, h5, h6, h7⟩ := h
  rw [Form.firstError_noError]
  simp [Form.CommonPass, Form.SlotPasses, Form.LengthsPass, Form.RangePasses, Form.OverlapPasses, Form.ProtectionPasses,
    formMulWord, Form.slotted, Form.plain, lenAny, lenUpTo, Form.permitted, Permit.admits]
  simp only [State.Fits, Apart] at h1 h2 h3 h4 h5 h6
  (repeat' apply And.intro) <;> try (first
    | omega | exact clear_spec ‹_› | exact clearBut_spec ‹_› | (intros; omega) | exact .inl (by intros; omega)
    | exact .inr (by omega) | exact .inr ⟨by omega, by omega⟩ | assumption)
  · simp only [hr, false_or]
    rcases h5 with h5 | h5
    · right; omega
    · left; intros; omega
  · simp only [hr, false_or]
    first
      | (intros; omega)
      | exact fun _ => clear_spec h7

theorem mul_passes (s : State) (h : s.MulReady) :
    (formMul s).firstError s = .noError := by
  obtain ⟨h1, h2, h3, h4, h5, h6, h7, h8⟩ := h
  rw [Form.firstError_noError]
  simp [Form.CommonPass, Form.SlotPasses, Form.LengthsPass, Form.RangePasses, Form.OverlapPasses, Form.ProtectionPasses,
    formMul, Form.slotted, Form.plain, lenAny, lenUpTo, Form.permitted, Permit.admits]
  simp only [State.Fits, Apart] at h1 h2 h3 h4 h5 h6 h7
  (repeat' apply And.intro) <;> (first
    | omega | exact clear_spec ‹_› | exact clearBut_spec ‹_› | (intros; omega) | exact .inl (by intros; omega)
    | exact .inr (by omega) | exact .inr ⟨by omega, by omega⟩ | assumption)

theorem sqr_passes (s : State) (h : s.SqrReady) :
    (formSqr s).firstError s = .noError := by
  obtain ⟨h1, h2, h3, h4, h5⟩ := h
  rw [Form.firstError_noError]
  simp [Form.CommonPass, Form.SlotPasses, Form.LengthsPass, Form.RangePasses, Form.OverlapPasses, Form.ProtectionPasses,
    formSqr, Form.slotted, Form.plain, lenAny, lenUpTo, Form.permitted, Permit.admits]
  simp only [State.Fits, Apart] at h1 h2 h3 h4
  (repeat' apply And.intro) <;> (first
    | omega | exact clear_spec ‹_› | exact clearBut_spec ‹_› | (intros; omega) | exact .inl (by intros; omega)
    | exact .inr (by omega) | exact .inr ⟨by omega, by omega⟩ | assumption)

theorem inPlaceX_passes (s : State) (h : s.InPlaceXReady) :
    (formInPlaceX s).firstError s = .noError := by
  obtain ⟨h1, h2, h3, h4, h5, h6, h7⟩ := h
  rw [Form.firstError_noError]
  simp [Form.CommonPass, Form.SlotPasses, Form.LengthsPass, Form.RangePasses, Form.OverlapPasses, Form.ProtectionPasses,
    formInPlaceX, Form.slotted, Form.plain, lenAny, lenUpTo, Form.permitted, Permit.admits]
  simp only [State.Fits, Apart] at h1 h2 h3 h4 h5 h6
  (repeat' apply And.intro) <;> try (first
    | omega | exact clear_spec ‹_› | exact clearBut_spec ‹_› | (intros; omega) | exact .inl (by intros; omega)
    | exact .inr (by omega) | exact .inr ⟨by omega, by omega⟩ | assumption)
  rcases h6 with h6 | h6
  · right; omega
  · left; intros; omega

theorem modw_passes (s : State) (h : s.ModwReady) :
    (formModw s).firstError s = .noError := by
  obtain ⟨h1, h2, h3, h4⟩ := h
  rw [Form.firstError_noError]
  simp [Form.CommonPass, Form.SlotPasses, Form.LengthsPass, Form.RangePasses, Form.OverlapPasses, Form.ProtectionPasses,
    formModw, Form.slotted, Form.plain, lenAny, lenUpTo, Form.permitted, Permit.admits]
  simp only [State.Fits] at h1 h2 h3
  (repeat' apply And.intro) <;> (first
    | omega | exact clear_spec ‹_› | exact clearBut_spec ‹_› | (intros; omega) | exact .inl (by intros; omega)
    | exact .inr (by omega) | exact .inr ⟨by omega, by omega⟩ | assumption)

theorem test_passes (s : State) (h : s.TestReady) :
    (formTest s).firstError s = .noError := by
  obtain ⟨h1, h2⟩ := h
  rw [Form.firstError_noError]
  simp [Form.CommonPass, Form.SlotPasses, Form.LengthsPass, Form.RangePasses, Form.OverlapPasses, Form.ProtectionPasses,
    formTest, Form.slotted, Form.plain, lenAny, lenUpTo, Form.permitted, Permit.admits]
  simp only [State.Fits] at h1 h2
  (repeat' apply And.intro) <;> (first
    | omega | exact clear_spec ‹_› | exact clearBut_spec ‹_› | (intros; omega) | exact .inl (by intros; omega)
    | exact .inr (by omega) | exact .inr ⟨by omega, by omega⟩ | assumption)

theorem zero_passes (s : State) (h : s.UnaryReady) :
    (formZero s).firstError s = .noError := by
  obtain ⟨h1, h2, h3⟩ := h
  rw [Form.firstError_noError]
  simp [Form.CommonPass, Form.SlotPasses, Form.LengthsPass, Form.RangePasses, Form.OverlapPasses, Form.ProtectionPasses,
    formZero, Form.slotted, Form.plain, lenAny, lenUpTo, Form.permitted, Permit.admits]
  simp only [State.Fits] at h1 h2
  (repeat' apply And.intro) <;> (first
    | omega | exact clear_spec ‹_› | exact clearBut_spec ‹_› | (intros; omega) | exact .inl (by intros; omega)
    | exact .inr (by omega) | exact .inr ⟨by omega, by omega⟩ | assumption)

theorem copy_passes (s : State) (h : s.CopyReady) :
    (formCopy s).firstError s = .noError := by
  obtain ⟨h1, h2, h3, h4, h5⟩ := h
  rw [Form.firstError_noError]
  simp [Form.CommonPass, Form.SlotPasses, Form.LengthsPass, Form.RangePasses, Form.OverlapPasses, Form.ProtectionPasses,
    formCopy, Form.slotted, Form.plain, lenAny, lenUpTo, Form.permitted, Permit.admits]
  simp only [State.Fits, Apart] at h1 h2 h3 h4
  (repeat' apply And.intro) <;> try (first
    | omega | exact clear_spec ‹_› | exact clearBut_spec ‹_› | (intros; omega) | exact .inl (by intros; omega)
    | exact .inr (by omega) | exact .inr ⟨by omega, by omega⟩ | assumption)
  rcases h4 with h4 | h4
  · right; omega
  · left; intros; omega

theorem sqrmod_passes (s : State) (k : Fin 4) (h : s.OneInputReady k (s.slotN k) (s.arg 2) (s.arg 3) (4 * s.slotN k + 2)) :
    (formSqrmod s k).firstError s = .noError := by
  obtain ⟨⟨h1, -⟩, h2, h3, h4, h5, h6, h7, h8, h9, h10⟩ := h
  rw [Form.firstError_noError]
  simp [Form.CommonPass, Form.SlotPasses, Form.LengthsPass, Form.RangePasses, Form.OverlapPasses, Form.ProtectionPasses,
    formSqrmod, Form.slotted, Form.plain, lenAny, lenUpTo, Form.permitted, Permit.admits]
  simp only [State.Fits, Apart] at h2 h3 h4 h5 h6 h7 h8
  (repeat' apply And.intro) <;> (first
    | omega | exact clear_spec ‹_› | exact clearBut_spec ‹_› | (intros; omega) | exact .inl (by intros; omega)
    | exact .inr (by omega) | exact .inr ⟨by omega, by omega⟩ | assumption)

end Sys2Proof.Machine
end

