-- ==== Sys2Proof/Laws/Host.lean ====
section
/-! SUPPORT. What a host access can do, said once. -/

namespace Sys2Proof.Machine

/-- The effects a host access can have (10_state.md R31 to R48, 20_memory.md R70, R83). -/
inductive HostCase (s : State) : State → Prop where
  | read (off : Nat) : HostCase s { s with replies := s.replies ++ [.reg off (s.readReg off)] }
  | softReset : HostCase s s.softReset
  | enable (b : Bool) : HostCase s { s with ie := b }
  | status (v : Reg) : HostCase s (s.writeStatus v)
  | accept (c : Reg) (hp : s.pending = none) : HostCase s (s.accept c)
  | overrun (hp : s.pending ≠ none) : HostCase s { s with ovr := true }
  | arg (i : Fin 8) (v : Reg) (hp : s.pending = none) : HostCase s { s with args := s.args.set v i }
  | ignored : HostCase s s
  | hold (x : LmAccess) (hp : s.pending ≠ none) : HostCase s { s with held := s.held ++ [x] }
  | lm (x : LmAccess) (hp : s.pending = none) : HostCase s (s.lmPerform x)

theorem State.busy_iff (s : State) : s.busy = true ↔ s.pending ≠ none := by
  unfold State.busy
  cases s.pending <;> simp

theorem State.not_busy_iff (s : State) : ¬s.busy = true ↔ s.pending = none := by
  rw [State.busy_iff, not_not]

theorem State.writeCmd_cases (s : State) (v : Reg) : HostCase s (s.writeCmd v) := by
  unfold State.writeCmd
  split
  · exact .overrun (s.busy_iff.1 ‹_›)
  · exact .accept v (s.not_busy_iff.1 ‹_›)

theorem State.writeArg_cases (s : State) (i : Fin 8) (v : Reg) : HostCase s (s.writeArg i v) := by
  unfold State.writeArg
  split
  · exact .overrun (s.busy_iff.1 ‹_›)
  · exact .arg i v (s.not_busy_iff.1 ‹_›)

theorem State.writeCtrl_cases (s : State) (v : Reg) : HostCase s (s.writeCtrl v) := by
  unfold State.writeCtrl
  split
  · exact .softReset
  · exact .enable _

/-- A register write has one of these effects. -/
theorem State.writeReg_cases (s : State) (off : Nat) (v : Reg) : HostCase s (s.writeReg off v) := by
  unfold State.writeReg
  split
  · exact s.writeCtrl_cases v
  · exact .status v
  · exact s.writeCmd_cases v
  all_goals first
    | exact s.writeArg_cases _ v
    | exact .ignored

/-- A host access that is not refused has one of these effects. -/
theorem State.hostAccess_cases {s t : State} {x : HostAccess} (h : s.hostAccess x = .next t) : HostCase s t := by
  cases x with
  | regRead off bits =>
    simp only [State.hostAccess] at h
    split at h
    · exact Host.Outcome.next.inj h ▸ HostCase.read off
    · cases h
  | regWrite off bits v =>
    simp only [State.hostAccess] at h
    split at h
    · exact Host.Outcome.next.inj h ▸ s.writeReg_cases off v
    · cases h
  | lm x =>
    simp only [State.hostAccess] at h
    split at h
    · exact Host.Outcome.next.inj h ▸ HostCase.hold x (s.busy_iff.1 ‹_›)
    · exact Host.Outcome.next.inj h ▸ HostCase.lm x (s.not_busy_iff.1 ‹_›)

/-- An LM access changes nothing but the replies, the memory and the slots. -/
theorem State.lmPerform_rest (s : State) (x : LmAccess) :
    s.lmPerform x = { s with replies := (s.lmPerform x).replies, lm := (s.lmPerform x).lm,
                             ctx := (s.lmPerform x).ctx } := by
  cases x with
  | read a => rfl
  | write a v =>
    simp only [State.lmPerform, State.lmWrite]
    split <;> rfl

/-- The same of all held accesses. -/
theorem State.lmPerformAll_rest (s : State) (xs : List LmAccess) :
    s.lmPerformAll xs = { s with replies := (s.lmPerformAll xs).replies, lm := (s.lmPerformAll xs).lm,
                                 ctx := (s.lmPerformAll xs).ctx } := by
  induction xs generalizing s with
  | nil => rfl
  | cons x xs ih =>
    rw [State.lmPerformAll, ih (s.lmPerform x), s.lmPerform_rest x]

/-- One LM access leaves in every word what `wordAfter` says. -/
theorem State.word_lmPerform (s : State) (x : LmAccess) (a : Nat) : (s.lmPerform x).word a = s.wordAfter [x] a := by
  cases x with
  | read b => simp [State.lmPerform, State.wordAfter, lastWrite, State.word, State.radix, State.wordBits]
  | write b v =>
    have hd := ofNat_digit s.radix v.toNat s.radix_le s.radix_pos
    by_cases hb : b < s.params.lmWords <;> by_cases hab : a = b
    · subst hab
      simp only [State.lmPerform, State.lmWrite, if_pos hb, State.wordAfter, lastWrite, State.word, Memory.find_write,
        Option.none_or, if_true, Option.map_some, Option.getD_some, hd]
      exact Nat.mod_mod _ _
    · simp [State.lmPerform, State.lmWrite, hb, State.wordAfter, lastWrite, State.word, Memory.find_write, hab,
        State.radix, State.wordBits]
    · subst hab; simp [State.lmPerform, State.lmWrite, hb, State.wordAfter]
    · simp [State.lmPerform, State.lmWrite, hb, State.wordAfter, lastWrite, hab]

/-- `wordAfter` takes the accesses one by one. -/
theorem State.wordAfter_cons (s : State) (x : LmAccess) (xs : List LmAccess) (a : Nat) :
    s.wordAfter (x :: xs) a = (s.lmPerform x).wordAfter xs a := by
  have hp : (s.lmPerform x).params = s.params := by rw [s.lmPerform_rest x]
  have hr : (s.lmPerform x).radix = s.radix := by simp only [State.radix, State.wordBits, hp]
  have hw := s.word_lmPerform x a
  rw [State.wordAfter, State.wordAfter, hp, hr, hw, State.wordAfter]
  by_cases ha : a < s.params.lmWords <;> simp only [ha, if_true, if_false]
  cases x with
  | read b => rfl
  | write b v => simp only [lastWrite]; cases lastWrite xs a <;> simp

/-- LM accesses taken in order leave in every word what `wordAfter` says. -/
theorem State.word_lmPerformAll (s : State) (xs : List LmAccess) (a : Nat) :
    (s.lmPerformAll xs).word a = s.wordAfter xs a := by
  induction xs generalizing s with
  | nil => simp [State.lmPerformAll, State.wordAfter, lastWrite]
  | cons x xs ih => rw [State.lmPerformAll, ih, s.wordAfter_cons]

theorem State.lmPerformAll_append (s : State) (xs ys : List LmAccess) :
    s.lmPerformAll (xs ++ ys) = (s.lmPerformAll xs).lmPerformAll ys := by
  induction xs generalizing s with
  | nil => rfl
  | cons x xs ih => exact ih _

/-- LM accesses only add replies, one for each read. -/
theorem State.lmPerformAll_replies (s : State) (xs : List LmAccess) :
    ∃ rs, (s.lmPerformAll xs).replies = s.replies ++ rs ∧ rs.length = readCount xs := by
  induction xs generalizing s with
  | nil => exact ⟨[], by simp [State.lmPerformAll, readCount]⟩
  | cons x xs ih =>
    obtain ⟨rs, hrs, hl⟩ := ih (s.lmPerform x)
    cases x with
    | read a =>
      exact ⟨.lm a (BitVec.ofNat 64 (s.lmRead a)) :: rs, by
        rw [State.lmPerformAll, hrs, State.lmPerform, List.append_assoc]; rfl, by simp [readCount] at hl ⊢; exact hl⟩
    | write a v =>
      refine ⟨rs, ?_, by simp [readCount] at hl ⊢; exact hl⟩
      rw [State.lmPerformAll, hrs, State.lmPerform, State.lmWrite]
      split <;> rfl

/-- Havocking buffers changes nothing but the memory and the free counter. -/
theorem State.havocWritten_rest (s : State) (bs : List Buf) :
    s.havocWritten bs = { s with lm := (s.havocWritten bs).lm, free := (s.havocWritten bs).free } := by
  induction bs generalizing s with
  | nil => rfl
  | cons b bs ih =>
    rw [State.havocWritten, ih]
    split <;> rfl

/-- A word outside the written buffers keeps its value. -/
theorem State.havocWritten_word (s : State) (bs : List Buf) (a : Nat)
    (h : ∀ b ∈ bs, b.role ≠ .input → a < b.addr ∨ b.addr + b.len ≤ a) : (s.havocWritten bs).word a = s.word a := by
  induction bs generalizing s with
  | nil => rfl
  | cons b bs ih =>
    rw [State.havocWritten, ih _ fun c hc => h c (List.mem_cons_of_mem _ hc)]
    by_cases hb : b.role = .input
    · simp [Buf.written, hb]
    · simp only [Buf.written, hb, ne_eq, not_false_eq_true, decide_true, if_true]
      exact s.word_havoc_outside _ _ _ (h b (List.mem_cons_self ..) hb)

/-- An aborted command leaves a state that its written buffers alone tell from the one before, and only if it
passes its checks (70_reset_and_hazards.md R382). -/
theorem State.abortHavoc_cases (s : State) :
    s.abortHavoc = s ∨ ∃ p i, s.pending = some p ∧ decode p.cmd = .ok i ∧ (formOf i s).firstError s = .noError ∧
      s.abortHavoc = s.havocWritten (formOf i s).bufs := by
  unfold State.abortHavoc
  split
  · exact .inl rfl
  · rename_i p hp
    split
    · exact .inl rfl
    · rename_i i hi
      split
      · exact .inr ⟨p, i, hp, hi, ‹_›, rfl⟩
      · exact .inl rfl

end Sys2Proof.Machine
end

