-- ==== Sys2Proof/Laws/Number.lean ====
section
/-! SUPPORT. What the integer operations of Number.lean compute. -/

namespace Sys2Proof.Machine

@[simp] theorem asBit_le (b : Bool) : asBit b ≤ 1 := by cases b <;> decide

/-- With enough rounds the loop answers a multiplier of `a` behind the gcd of the two remainders. -/
theorem euclid_spec (m a : Nat) (fuel r0 r1 : Nat) (t0 t1 : Int) (hf : r1 < fuel)
    (h0 : (a : Int) * t0 ≡ r0 [ZMOD m]) (h1 : (a : Int) * t1 ≡ r1 [ZMOD m]) :
    (a : Int) * euclid fuel r0 r1 t0 t1 ≡ (Nat.gcd r0 r1 : Nat) [ZMOD m] := by
  induction fuel generalizing r0 r1 t0 t1 with
  | zero => omega
  | succ fuel ih =>
    rw [euclid]
    by_cases hr : r1 = 0
    · subst hr; simpa using h0
    · rw [if_neg hr, Nat.gcd_comm, Nat.gcd_rec, Nat.gcd_comm]
      have hlt := Nat.mod_lt r0 (Nat.pos_of_ne_zero hr)
      refine ih r1 (r0 % r1) t1 _ (by omega) h1 ?_
      have e : ((r0 % r1 : Nat) : Int) = r0 - (r0 / r1 : Nat) * r1 := by
        have h : (r1 : Int) * (r0 / r1 : Nat) + (r0 % r1 : Nat) = r0 := by exact_mod_cast Nat.div_add_mod r0 r1
        linarith
      rw [e, show (a : Int) * (t0 - (r0 / r1 : Nat) * t1) = a * t0 - (r0 / r1 : Nat) * (a * t1) by ring]
      exact h0.sub (h1.mul_left _)

/-- `invMod m a` is the inverse of `a` modulo `m` (00_scope.md R14). -/
theorem invMod_spec (m a : Nat) (hm : 1 < m) (hg : Nat.gcd a m = 1) :
    invMod m a < m ∧ a * invMod m a % m = 1 := by
  have hm' : (0 : Int) < m := by exact_mod_cast Nat.lt_of_succ_lt hm
  have key := euclid_spec m a (a + 2) m a 0 1 (by omega) (by simpa using (Int.modEq_zero_iff_dvd.2 dvd_rfl).symm)
    (by simp)
  rw [Nat.gcd_comm, hg] at key
  have hn := Int.emod_nonneg (euclid (a + 2) m a 0 1) hm'.ne'
  have hl := Int.emod_lt_of_pos (euclid (a + 2) m a 0 1) hm'
  have hc : ((invMod m a : Nat) : Int) = euclid (a + 2) m a 0 1 % m := Int.toNat_of_nonneg hn
  refine ⟨by exact_mod_cast hc ▸ hl, ?_⟩
  have : ((a * invMod m a : Nat) : Int) ≡ (1 : Nat) [ZMOD m] := by
    push_cast [hc]
    exact ((Int.mod_modEq _ _).mul_left _).trans key
  have h2 := (Int.natCast_modEq_iff.1 this)
  rwa [Nat.ModEq, Nat.mod_eq_of_lt hm] at h2

/-- The residue of a difference, as an integer. -/
theorem subMod_cast (m x y : Nat) (hm : 0 < m) : ((subMod m x y : Nat) : Int) = ((x : Int) - y) % m :=
  Int.toNat_of_nonneg (Int.emod_nonneg _ (by exact_mod_cast hm.ne'))

theorem subMod_lt (m x y : Nat) (hm : 0 < m) : subMod m x y < m := by
  have h : (0 : Int) < m := by exact_mod_cast hm
  exact_mod_cast (subMod_cast m x y hm) ▸ Int.emod_lt_of_pos _ h

end Sys2Proof.Machine
end

