-- ==== Sys2Proof/Laws/PerInstr.lean ====
section
/-! SUPPORT. Per command: its word is well formed, has its fields, and decodes to it. -/

namespace Sys2Proof.Laws.Encoding

/-- The word of `i` has the fields of `i`, they are those of a command, and the decoder gives `i` back
(30_encoding.md R100, R101, R106). -/
def Statement (i : Instr) : Prop :=
  CmdFields.ofWord (encode i) = i.fields ∧ i.fields.wellFormed = true ∧ (decode (encode i)).toOption = some i

theorem eq : Statement .eq := by unfold Statement; decide
theorem ne : Statement .ne := by unfold Statement; decide
theorem gt : Statement .gt := by unfold Statement; decide
theorem lt : Statement .lt := by unfold Statement; decide
theorem ge : Statement .ge := by unfold Statement; decide
theorem le : Statement .le := by unfold Statement; decide
theorem eqx : Statement .eqx := by unfold Statement; decide
theorem nex : Statement .nex := by unfold Statement; decide
theorem gtx : Statement .gtx := by unfold Statement; decide
theorem ltx : Statement .ltx := by unfold Statement; decide
theorem gex : Statement .gex := by unfold Statement; decide
theorem lex : Statement .lex := by unfold Statement; decide
theorem and : Statement .and := by unfold Statement; decide
theorem or : Statement .or := by unfold Statement; decide
theorem xor : Statement .xor := by unfold Statement; decide
theorem not : Statement .not := by unfold Statement; decide
theorem tstmsb : Statement .tstmsb := by unfold Statement; decide
theorem tstlsb : Statement .tstlsb := by unfold Statement; decide
theorem setmsb : Statement .setmsb := by unfold Statement; decide
theorem setlsb : Statement .setlsb := by unfold Statement; decide
theorem clrmsb : Statement .clrmsb := by unfold Statement; decide
theorem clrlsb : Statement .clrlsb := by unfold Statement; decide
theorem clz : Statement .clz := by unfold Statement; decide
theorem ctz : Statement .ctz := by unfold Statement; decide
theorem lshift : Statement .lshift := by unfold Statement; decide
theorem rshift : Statement .rshift := by unfold Statement; decide
theorem add : Statement .add := by unfold Statement; decide
theorem sub : Statement .sub := by unfold Statement; decide
theorem addx : Statement .addx := by unfold Statement; decide
theorem subx : Statement .subx := by unfold Statement; decide
theorem setmul : Statement .setmul := by unfold Statement; decide
theorem addmul : Statement .addmul := by unfold Statement; decide
theorem mul : Statement .mul := by unfold Statement; decide
theorem sqr : Statement .sqr := by unfold Statement; decide
theorem dbl : Statement .dbl := by unfold Statement; decide
theorem halve : Statement .halve := by unfold Statement; decide
theorem neg : Statement .neg := by unfold Statement; decide
theorem modw : Statement .modw := by unfold Statement; decide
theorem divmod : Statement .divmod := by unfold Statement; decide
theorem gcd : Statement .gcd := by unfold Statement; decide
theorem zero : Statement .zero := by unfold Statement; decide
theorem copy : Statement .copy := by unfold Statement; decide
theorem setmod (k : Fin 4) : Statement (.setmod k) := by unfold Statement; revert k; decide
theorem ctxclr (k : Fin 4) : Statement (.ctxclr k) := by unfold Statement; revert k; decide
theorem reduce (k : Fin 4) : Statement (.reduce k) := by unfold Statement; revert k; decide
theorem addmod (k : Fin 4) : Statement (.addmod k) := by unfold Statement; revert k; decide
theorem submod (k : Fin 4) : Statement (.submod k) := by unfold Statement; revert k; decide
theorem mulmod (k : Fin 4) : Statement (.mulmod k) := by unfold Statement; revert k; decide
theorem sqrmod (k : Fin 4) : Statement (.sqrmod k) := by unfold Statement; revert k; decide
theorem invmod (k : Fin 4) : Statement (.invmod k) := by unfold Statement; revert k; decide
theorem slide (k : Fin 4) : Statement (.slide k) := by unfold Statement; revert k; decide
theorem powmod (k : Fin 4) : Statement (.powmod k) := by unfold Statement; revert k; decide
theorem powsld (k : Fin 4) : Statement (.powsld k) := by unfold Statement; revert k; decide
theorem pow2 (k : Fin 4) : Statement (.pow2 k) := by unfold Statement; revert k; decide
theorem rnd (k : Fin 4) : Statement (.rnd k) := by unfold Statement; revert k; decide
theorem rndodd (k : Fin 4) : Statement (.rndodd k) := by unfold Statement; revert k; decide
theorem rndinv (k : Fin 4) : Statement (.rndinv k) := by unfold Statement; revert k; decide

end Sys2Proof.Laws.Encoding
end

