-- ==== Sys2Proof/Tests/Slice0.lean ====
section
/-! SUPPORT. The model's own tests: well-formedness, decoding, one step per command with the values of
95_test_vectors.md, the host's side, and a witness for the hypotheses of every statement. -/

namespace Sys2Proof.Tests

open Sys2Proof.Machine

set_option Elab.async false

/-! ## Well-formedness and decoding -/

/-- 30_encoding.md R102: OPC 0x07 is not listed. -/
theorem test_wf_refuses_unlisted_opcode :
    CmdFields.wellFormed { opc := 0x07, ctx := 0, reserved := 0 } = false := by decide

/-- 30_encoding.md R100: bit 10 of the word, the lowest of the reserved field, is 1. -/
theorem test_wf_refuses_reserved_bit :
    CmdFields.wellFormed { opc := 0x80, ctx := 0, reserved := 1 } = false := by decide

/-- 30_encoding.md R100: ADD with CTX = 1. -/
theorem test_wf_refuses_slot_on_plain_command :
    CmdFields.wellFormed { opc := 0x40, ctx := 1, reserved := 0 } = false := by decide

/-- 30_encoding.md R100: SETMOD with CTX = 3. -/
theorem test_wf_takes_slot_on_slot_command :
    CmdFields.wellFormed { opc := 0x80, ctx := 3, reserved := 0 } = true := by decide

/-- The words of the compare family, bit by bit: 22 reserved bits, 2 bits of CTX, 8 bits of OPC
(30_encoding.md R100, R105). -/
theorem test_decode_compare :
    decode 0b00000000000000000000000000000001#32 = .ok .eq ∧
    decode 0b00000000000000000000000000000010#32 = .ok .ne ∧
    decode 0b00000000000000000000000000000011#32 = .ok .gt ∧
    decode 0b00000000000000000000000000000100#32 = .ok .lt ∧
    decode 0b00000000000000000000000000000101#32 = .ok .ge ∧
    decode 0b00000000000000000000000000000110#32 = .ok .le ∧
    decode 0b00000000000000000000000000001001#32 = .ok .eqx ∧
    decode 0b00000000000000000000000000001010#32 = .ok .nex ∧
    decode 0b00000000000000000000000000001011#32 = .ok .gtx ∧
    decode 0b00000000000000000000000000001100#32 = .ok .ltx ∧
    decode 0b00000000000000000000000000001101#32 = .ok .gex ∧
    decode 0b00000000000000000000000000001110#32 = .ok .lex := by
  decide +kernel

/-- The words of the bitwise family, bit by bit: 22 reserved bits, 2 bits of CTX, 8 bits of OPC
(30_encoding.md R100, R105). -/
theorem test_decode_bitwise :
    decode 0b00000000000000000000000000100000#32 = .ok .and ∧
    decode 0b00000000000000000000000000100001#32 = .ok .or ∧
    decode 0b00000000000000000000000000100010#32 = .ok .xor ∧
    decode 0b00000000000000000000000000100011#32 = .ok .not ∧
    decode 0b00000000000000000000000000100100#32 = .ok .tstmsb ∧
    decode 0b00000000000000000000000000100101#32 = .ok .tstlsb ∧
    decode 0b00000000000000000000000000100110#32 = .ok .setmsb ∧
    decode 0b00000000000000000000000000100111#32 = .ok .setlsb ∧
    decode 0b00000000000000000000000000101000#32 = .ok .clrmsb ∧
    decode 0b00000000000000000000000000101001#32 = .ok .clrlsb ∧
    decode 0b00000000000000000000000000101010#32 = .ok .clz ∧
    decode 0b00000000000000000000000000101011#32 = .ok .ctz ∧
    decode 0b00000000000000000000000000101100#32 = .ok .lshift ∧
    decode 0b00000000000000000000000000101101#32 = .ok .rshift := by
  decide +kernel

/-- The words of the arith family, bit by bit: 22 reserved bits, 2 bits of CTX, 8 bits of OPC
(30_encoding.md R100, R105). -/
theorem test_decode_arith :
    decode 0b00000000000000000000000001000000#32 = .ok .add ∧
    decode 0b00000000000000000000000001000001#32 = .ok .sub ∧
    decode 0b00000000000000000000000001000010#32 = .ok .addx ∧
    decode 0b00000000000000000000000001000011#32 = .ok .subx ∧
    decode 0b00000000000000000000000001000100#32 = .ok .setmul ∧
    decode 0b00000000000000000000000001000101#32 = .ok .addmul ∧
    decode 0b00000000000000000000000001000110#32 = .ok .mul ∧
    decode 0b00000000000000000000000001000111#32 = .ok .sqr ∧
    decode 0b00000000000000000000000001001000#32 = .ok .dbl ∧
    decode 0b00000000000000000000000001001001#32 = .ok .halve ∧
    decode 0b00000000000000000000000001001010#32 = .ok .neg := by
  decide +kernel

/-- The words of the divide family, bit by bit: 22 reserved bits, 2 bits of CTX, 8 bits of OPC
(30_encoding.md R100, R105). -/
theorem test_decode_divide :
    decode 0b00000000000000000000000001100000#32 = .ok .modw ∧
    decode 0b00000000000000000000000001100001#32 = .ok .divmod ∧
    decode 0b00000000000000000000000001100010#32 = .ok .gcd := by
  decide +kernel

/-- The words of the data family, bit by bit: 22 reserved bits, 2 bits of CTX, 8 bits of OPC
(30_encoding.md R100, R105). -/
theorem test_decode_data :
    decode 0b00000000000000000000000001110000#32 = .ok .zero ∧
    decode 0b00000000000000000000000001110001#32 = .ok .copy := by
  decide +kernel

/-- The words of the barrett family, bit by bit: 22 reserved bits, 2 bits of CTX, 8 bits of OPC
(30_encoding.md R100, R105). -/
theorem test_decode_barrett :
    decode 0b00000000000000000000000110000000#32 = .ok (.setmod 1) ∧
    decode 0b00000000000000000000001010000001#32 = .ok (.ctxclr 2) ∧
    decode 0b00000000000000000000001110000010#32 = .ok (.reduce 3) ∧
    decode 0b00000000000000000000000010000011#32 = .ok (.addmod 0) ∧
    decode 0b00000000000000000000000110000100#32 = .ok (.submod 1) ∧
    decode 0b00000000000000000000001010000101#32 = .ok (.mulmod 2) ∧
    decode 0b00000000000000000000001110000110#32 = .ok (.sqrmod 3) ∧
    decode 0b00000000000000000000000010000111#32 = .ok (.invmod 0) := by
  decide +kernel

/-- The words of the powmod family, bit by bit: 22 reserved bits, 2 bits of CTX, 8 bits of OPC
(30_encoding.md R100, R105). -/
theorem test_decode_powmod :
    decode 0b00000000000000000000000110010000#32 = .ok (.slide 1) ∧
    decode 0b00000000000000000000001010010001#32 = .ok (.powmod 2) ∧
    decode 0b00000000000000000000001110010010#32 = .ok (.powsld 3) ∧
    decode 0b00000000000000000000000010010011#32 = .ok (.pow2 0) := by
  decide +kernel

/-- The words of the random family, bit by bit: 22 reserved bits, 2 bits of CTX, 8 bits of OPC
(30_encoding.md R100, R105). -/
theorem test_decode_random :
    decode 0b00000000000000000000000110100000#32 = .ok (.rnd 1) ∧
    decode 0b00000000000000000000001010100001#32 = .ok (.rndodd 2) ∧
    decode 0b00000000000000000000001110100010#32 = .ok (.rndinv 3) := by
  decide +kernel

/-- Illegal and reserved words: vectors X1 to X4. -/
theorem test_decode_refuses :
    decode 0x00000000#32 = .error .illegalOpcode ∧ decode 0x000000FF#32 = .error .illegalOpcode ∧
      decode 0x00000007#32 = .error .illegalOpcode ∧ decode 0x00000140#32 = .error .reservedField ∧
        decode 0x00000480#32 = .error .reservedField := by
  decide +kernel

/-- 30_encoding.md R106: the words of `ADD` and `SETMOD.c3`, and the row-asking decoder on them. -/
theorem test_encode_words :
    encode .add = 0x00000040#32 ∧ encode (.setmod 3) = 0x00000380#32 ∧ decodeTableWord 32 0x40 = some .add ∧
      decodeTableWord 32 0x380 = some (.setmod 3) ∧ decodeTableWord 32 0x140 = none := by
  decide +kernel

/-! ## One step per command -/

/-- The limb memory that holds the listed words. -/
def memory (m : List (Nat × Nat)) : List LmCell :=
  m.foldl (fun l c => Memory.write l c.1 (BitVec.ofNat 64 c.2)) []

/-- The argument registers that hold the listed values, the others 0. -/
def argFile (l : List Nat) : ArgFile :=
  let v (i : Nat) : Reg := BitVec.ofNat 32 (l.getD i 0)
  { a0 := v 0, a1 := v 1, a2 := v 2, a3 := v 3, a4 := v 4, a5 := v 5, a6 := v 6, a7 := v 7 }

/-- An idle unit of 4096 words with these arguments and words; RES holds a value no command computes. -/
def idle (w : Width) (args : List Nat) (m : List (Nat × Nat)) : State :=
  { State.resetWith { width := w, lmWords := 4096 } with args := argFile args, lm := memory m, res := 0x5A5A5A5A }

/-- The same unit with command `i` accepted. -/
def busy (w : Width) (i : Instr) (args : List Nat) (m : List (Nat × Nat)) : State :=
  (idle w args m).accept (encode i)

/-- Slot 0 valid at `b` with `n` words. -/
def withSlot (b n : Nat) (s : State) : State :=
  s.setSlot 0 { base := BitVec.ofNat 32 b, n := BitVec.ofNat 32 n, valid := true }

/-- The random source has these words ready. -/
def withDraws (l : List Nat) (s : State) : State := { s with rng := l.map (BitVec.ofNat 64) }

/-- The command has ended without error, with these words and this RES. -/
def gives (o : Out) (exp : List (Nat × Nat)) (r : Nat) : Bool :=
  match o with
  | .next t => exp.all (fun c => t.word c.1 == c.2) && t.resVal == r && t.statusReg == 0x00000002
  | .fault _ => false
  | .refused _ => false

/-- The command has ended with error code `e` and no other effect on `s`. -/
def ends (o : Out) (s : State) (e : ErrorCode) : Bool :=
  match o with
  | .next t => decide (t = { s with pending := none, done := true, err := true, errCode := e })
  | .fault _ => false
  | .refused _ => false

/-- The attempt was rejected: still pending after one attempt, these draws left. -/
def rejects (o : Out) (left : List Nat) : Bool :=
  match o with
  | .next t => t.pending.any (fun p => p.attempts == 1) && t.rng.map BitVec.toNat == left && t.statusReg == 0x00000001
  | .fault _ => false
  | .refused _ => false

/-- Vector A1, R140. -/
theorem test_eq_a1 : gives (step (busy .w32 .eq [0x10, 0x20, 2] [(0x10, 1), (0x11, 0), (0x20, 1), (0x21, 0)])) [] 1
    = true := by
  decide +kernel

/-- Vector A16, R140; 60_exceptions.md rule R345. -/
theorem test_eq_a16 : ends (step (busy .w32 .eq [0x10, 0x20, 0] [])) (busy .w32 .eq [0x10, 0x20, 0] []) .badLength
    = true := by
  decide +kernel

/-- Vector A2, R141. -/
theorem test_ne_a2 : gives (step (busy .w32 .ne [0x10, 0x20, 2] [(0x10, 1), (0x11, 0), (0x20, 1), (0x21, 1)])) [] 1
    = true := by
  decide +kernel

/-- Vector A3, R142. -/
theorem test_gt_a3 : gives (step (busy .w32 .gt [0x10, 0x20, 2] [(0x10, 1), (0x11, 0), (0x20, 0), (0x21,
    0xffffffff)])) [] 1 = true := by
  decide +kernel

/-- Vector A7, R142. -/
theorem test_gt_a7 : gives (step (busy .w32 .gt [0x10, 0x10, 2] [(0x10, 0), (0x11, 2), (0x20, 0), (0x21, 0)])) [] 0
    = true := by
  decide +kernel

/-- Vector A8, R143. -/
theorem test_lt_a8 : gives (step (busy .w32 .lt [0x10, 0x20, 1] [(0x10, 0), (0x20, 0xffffffff)])) [] 1 = true := by
  decide +kernel

/-- Vector A4, R143. -/
theorem test_lt_a4 : gives (step (busy .w32 .lt [0x10, 0x20, 2] [(0x10, 1), (0x11, 0), (0x20, 0), (0x21,
    0xffffffff)])) [] 0 = true := by
  decide +kernel

/-- Vector A5, R144. -/
theorem test_ge_a5 : gives (step (busy .w32 .ge [0x10, 0x20, 2] [(0x10, 0xffffffff), (0x11, 0), (0x20, 0xffffffff),
    (0x21, 0)])) [] 1 = true := by
  decide +kernel

/-- Vector A6, R145. -/
theorem test_le_a6 : gives (step (busy .w32 .le [0x10, 0x20, 2] [(0x10, 0), (0x11, 2), (0x20, 0), (0x21, 1)])) [] 0
    = true := by
  decide +kernel

/-- Vector A9, R146. -/
theorem test_eqx_a9 : gives (step (busy .w32 .eqx [0x10, 2, 0x20, 1] [(0x10, 0), (0x11, 5), (0x20, 5)])) [] 1 =
    true := by
  decide +kernel

/-- Vector A10, R147. -/
theorem test_nex_a10 : gives (step (busy .w32 .nex [0x10, 2, 0x20, 1] [(0x10, 1), (0x11, 5), (0x20, 5)])) [] 1 =
    true := by
  decide +kernel

/-- Vector A11, R148. -/
theorem test_gtx_a11 : gives (step (busy .w32 .gtx [0x10, 2, 0x20, 1] [(0x10, 1), (0x11, 0), (0x20, 0xffffffff)]))
    [] 1 = true := by
  decide +kernel

/-- Vector A15, R148. -/
theorem test_gtx_a15 : gives (step (busy .w32 .gtx [0x10, 1, 0x20, 2] [(0x10, 5), (0x20, 1), (0x21, 0)])) [] 0 =
    true := by
  decide +kernel

/-- Vector A12, R149. -/
theorem test_ltx_a12 : gives (step (busy .w32 .ltx [0x10, 1, 0x20, 2] [(0x10, 5), (0x20, 0), (0x21, 6)])) [] 1 =
    true := by
  decide +kernel

/-- Vector A13, R150. -/
theorem test_gex_a13 : gives (step (busy .w32 .gex [0x10, 2, 0x20, 1] [(0x10, 0), (0x11, 0xffffffff), (0x20,
    0xffffffff)])) [] 1 = true := by
  decide +kernel

/-- Vector A14, R151. -/
theorem test_lex_a14 : gives (step (busy .w32 .lex [0x10, 2, 0x20, 1] [(0x10, 1), (0x11, 0), (0x20, 0xffffffff)]))
    [] 0 = true := by
  decide +kernel

/-- Vector BW1, R160. -/
theorem test_and_bw1 : gives (step (busy .w32 .and [0x10, 0x20, 1] [(0x10, 0xf0f0f0f0), (0x20, 0xff00ff00)]))
    [(0x10, 0xf000f000)] 0 = true := by
  decide +kernel

/-- Vector BW5, R160; 20_memory.md rule R80. -/
theorem test_and_bw5 : ends (step (busy .w32 .and [0x10, 0x11, 2] [(0x10, 0xdeadbeef), (0x11, 0x1234567), (0x12,
    0)])) (busy .w32 .and [0x10, 0x11, 2] [(0x10, 0xdeadbeef), (0x11, 0x1234567), (0x12, 0)]) .overlap = true := by
  decide +kernel

/-- Vector BW2, R161. -/
theorem test_or_bw2 : gives (step (busy .w32 .or [0x10, 0x20, 1] [(0x10, 0xf0f0f0f0), (0x20, 0xff00ff00)])) [(0x10,
    0xfff0fff0)] 0 = true := by
  decide +kernel

/-- Vector BW3, R162. -/
theorem test_xor_bw3 : gives (step (busy .w32 .xor [0x10, 0x20, 1] [(0x10, 0xf0f0f0f0), (0x20, 0xff00ff00)]))
    [(0x10, 0xff00ff0)] 0 = true := by
  decide +kernel

/-- Vector BW4, R162. -/
theorem test_xor_bw4 : gives (step (busy .w32 .xor [0x10, 0x10, 2] [(0x10, 0xdeadbeef), (0x11, 0x1234567)]))
    [(0x10, 0), (0x11, 0)] 0 = true := by
  decide +kernel

/-- Vector BW6, R163. -/
theorem test_not_bw6 : gives (step (busy .w32 .not [0x10, 2] [(0x10, 0), (0x11, 0xffffffff)])) [(0x10, 0xffffffff),
    (0x11, 0)] 0 = true := by
  decide +kernel

/-- Vector BW8, R164. -/
theorem test_tstmsb_bw8 : gives (step (busy .w32 .tstmsb [0x10, 2] [(0x10, 0x80000000), (0x11, 0)])) [(0x10,
    0x80000000), (0x11, 0)] 1 = true := by
  decide +kernel

/-- Vector BW9, R165. -/
theorem test_tstlsb_bw9 : gives (step (busy .w32 .tstlsb [0x10, 2] [(0x10, 0), (0x11, 2)])) [(0x10, 0), (0x11, 2)]
    0 = true := by
  decide +kernel

/-- Vector BW10, R165. -/
theorem test_tstlsb_bw10 : gives (step (busy .w32 .tstlsb [0x10, 1] [(0x10, 1)])) [(0x10, 1)] 1 = true := by
  decide +kernel

/-- Vector BW11, R166. -/
theorem test_setmsb_bw11 : gives (step (busy .w32 .setmsb [0x10, 2] [(0x10, 0), (0x11, 0)])) [(0x10, 0x80000000),
    (0x11, 0)] 0 = true := by
  decide +kernel

/-- Vector BW12, R167. -/
theorem test_setlsb_bw12 : gives (step (busy .w32 .setlsb [0x10, 1] [(0x10, 0x10)])) [(0x10, 0x11)] 0 = true := by
  decide +kernel

/-- Vector BW13, R168. -/
theorem test_clrmsb_bw13 : gives (step (busy .w32 .clrmsb [0x10, 1] [(0x10, 0xffffffff)])) [(0x10, 0x7fffffff)] 0 =
    true := by
  decide +kernel

/-- Vector BW14, R169. -/
theorem test_clrlsb_bw14 : gives (step (busy .w32 .clrlsb [0x10, 1] [(0x10, 0x11)])) [(0x10, 0x10)] 0 = true := by
  decide +kernel

/-- Vector BW15, R170. -/
theorem test_clz_bw15 : gives (step (busy .w32 .clz [0x10, 2] [(0x10, 0), (0x11, 0x10000)])) [(0x10, 0), (0x11,
    0x10000)] 0x2f = true := by
  decide +kernel

/-- Vector BW16, R170. -/
theorem test_clz_bw16 : gives (step (busy .w32 .clz [0x10, 2] [(0x10, 0), (0x11, 0)])) [(0x10, 0), (0x11, 0)] 0x40
    = true := by
  decide +kernel

/-- Vector BW18, R171. -/
theorem test_ctz_bw18 : gives (step (busy .w32 .ctz [0x10, 2] [(0x10, 1), (0x11, 0)])) [(0x10, 1), (0x11, 0)] 0x20
    = true := by
  decide +kernel

/-- Vector BW19, R171. -/
theorem test_ctz_bw19 : gives (step (busy .w32 .ctz [0x10, 2] [(0x10, 0), (0x11, 0)])) [(0x10, 0), (0x11, 0)] 0x40
    = true := by
  decide +kernel

/-- Vector BW20, R172. -/
theorem test_lshift_bw20 : gives (step (busy .w32 .lshift [0x10, 2, 1] [(0x10, 0), (0x11, 0x80000001)])) [(0x10,
    1), (0x11, 2)] 0 = true := by
  decide +kernel

/-- Vector BW21, R172. -/
theorem test_lshift_bw21 : gives (step (busy .w32 .lshift [0x10, 2, 0x40] [(0x10, 0), (0x11, 0x80000001)])) [(0x10,
    0), (0x11, 0)] 0 = true := by
  decide +kernel

/-- Vector BW24, R173. -/
theorem test_rshift_bw24 : gives (step (busy .w32 .rshift [0x10, 2, 1] [(0x10, 1), (0x11, 2)])) [(0x10, 0), (0x11,
    0x80000001)] 0 = true := by
  decide +kernel

/-- Vector BW26, R173. -/
theorem test_rshift_bw26 : gives (step (busy .w32 .rshift [0x10, 2, 0xffffffff] [(0x10, 0xffffffff), (0x11,
    0xffffffff)])) [(0x10, 0), (0x11, 0)] 0 = true := by
  decide +kernel

/-- Vector C1, R190. -/
theorem test_add_c1 : gives (step (busy .w32 .add [0x10, 0x20, 2] [(0x10, 0xffffffff), (0x11, 0xffffffff), (0x20,
    0), (0x21, 1)])) [(0x10, 0), (0x11, 0)] 1 = true := by
  decide +kernel

/-- Vector C3, R190, R198. -/
theorem test_add_c3 : gives (step (busy .w32 .add [0x10, 0x10, 1] [(0x10, 0x80000000)])) [(0x10, 0)] 1 = true := by
  decide +kernel

/-- Vector C4, R191. -/
theorem test_sub_c4 : gives (step (busy .w32 .sub [0x10, 0x20, 2] [(0x10, 0), (0x11, 0), (0x20, 0), (0x21, 1)]))
    [(0x10, 0xffffffff), (0x11, 0xffffffff)] 1 = true := by
  decide +kernel

/-- Vector C5, R191. -/
theorem test_sub_c5 : gives (step (busy .w32 .sub [0x10, 0x10, 2] [(0x10, 0x12345678), (0x11, 0x12345678)]))
    [(0x10, 0), (0x11, 0)] 0 = true := by
  decide +kernel

/-- Vector C6, R192. -/
theorem test_addx_c6 : gives (step (busy .w32 .addx [0x10, 2, 0x20, 1] [(0x10, 0), (0x11, 0xffffffff), (0x20, 1)]))
    [(0x10, 1), (0x11, 0)] 0 = true := by
  decide +kernel

/-- Vector C10, R192. -/
theorem test_addx_c10 : ends (step (busy .w32 .addx [0x10, 1, 0x20, 2] [])) (busy .w32 .addx [0x10, 1, 0x20, 2] [])
    .badLength = true := by
  decide +kernel

/-- Vector C8, R193. -/
theorem test_subx_c8 : gives (step (busy .w32 .subx [0x10, 2, 0x20, 1] [(0x10, 1), (0x11, 0), (0x20, 1)])) [(0x10,
    0), (0x11, 0xffffffff)] 0 = true := by
  decide +kernel

/-- Vector C9, R193. -/
theorem test_subx_c9 : gives (step (busy .w32 .subx [0x10, 2, 0x20, 1] [(0x10, 0), (0x11, 0), (0x20, 1)])) [(0x10,
    0xffffffff), (0x11, 0xffffffff)] 1 = true := by
  decide +kernel

/-- Vector C11, R194. -/
theorem test_setmul_c11 : gives (step (busy .w32 .setmul [0x40, 0x10, 2, 0x20] [(0x10, 0xffffffff), (0x11,
    0xffffffff), (0x20, 2)])) [(0x40, 0xffffffff), (0x41, 0xfffffffe)] 1 = true := by
  decide +kernel

/-- The RES of vector C12 and the R of rule R194: `x * y = 0xFFFFFFFE_FFFFFFFF_00000001` (log 16). -/
theorem test_setmul_c12 : gives (step (busy .w32 .setmul [0x40, 0x10, 2, 0x20] [(0x10, 0xffffffff), (0x11,
    0xffffffff), (0x20, 0xffffffff)])) [(0x40, 0xffffffff), (0x41, 1)] 0xfffffffe = true := by
  decide +kernel

/-- Vector C14, R195. -/
theorem test_addmul_c14 : gives (step (busy .w32 .addmul [0x40, 0x10, 1, 0x20] [(0x10, 0xffffffff), (0x20,
    0xffffffff), (0x40, 1)])) [(0x40, 2)] 0xfffffffe = true := by
  decide +kernel

/-- Vector C15, R195. -/
theorem test_addmul_c15 : gives (step (busy .w32 .addmul [0x40, 0x10, 1, 0x20] [(0x10, 0xffffffff), (0x20,
    0xffffffff), (0x40, 0xffffffff)])) [(0x40, 0)] 0xffffffff = true := by
  decide +kernel

/-- Vector C16, R196. -/
theorem test_mul_c16 : gives (step (busy .w32 .mul [0x40, 0x10, 1, 0x20, 2] [(0x10, 0xffffffff), (0x20, 1), (0x21,
    1)])) [(0x40, 0), (0x41, 0xffffffff), (0x42, 0xffffffff)] 0 = true := by
  decide +kernel

/-- Vector C17, R196. -/
theorem test_mul_c17 : ends (step (busy .w32 .mul [0x10, 0x10, 1, 0x20, 1] [])) (busy .w32 .mul [0x10, 0x10, 1,
    0x20, 1] []) .overlap = true := by
  decide +kernel

/-- Vector C18, R197. -/
theorem test_sqr_c18 : gives (step (busy .w32 .sqr [0x40, 0x10, 1] [(0x10, 0xffffffff)])) [(0x40, 0xfffffffe),
    (0x41, 1)] 0 = true := by
  decide +kernel

/-- Vector C19, R197. -/
theorem test_sqr_c19 : gives (step (busy .w32 .sqr [0x40, 0x10, 2] [(0x10, 0xffffffff), (0x11, 0xffffffff)]))
    [(0x40, 0xffffffff), (0x41, 0xfffffffe), (0x42, 0), (0x43, 1)] 0 = true := by
  decide +kernel

/-- Vector C20, R198. -/
theorem test_dbl_c20 : gives (step (busy .w32 .dbl [0x10, 1] [(0x10, 0x80000001)])) [(0x10, 2)] 1 = true := by
  decide +kernel

/-- Vector C22, R199. -/
theorem test_halve_c22 : gives (step (busy .w32 .halve [0x10, 1] [(0x10, 3)])) [(0x10, 1)] 1 = true := by
  decide +kernel

/-- Vector C23, R199. -/
theorem test_halve_c23 : gives (step (busy .w32 .halve [0x10, 1] [(0x10, 0xffffffff)])) [(0x10, 0x7fffffff)] 1 =
    true := by
  decide +kernel

/-- Vector C24, R200. -/
theorem test_neg_c24 : gives (step (busy .w32 .neg [0x10, 2] [(0x10, 0), (0x11, 1)])) [(0x10, 0xffffffff), (0x11,
    0xffffffff)] 0 = true := by
  decide +kernel

/-- Vector C26, R200. -/
theorem test_neg_c26 : gives (step (busy .w32 .neg [0x10, 1] [(0x10, 0)])) [(0x10, 0)] 0 = true := by
  decide +kernel

/-- Vector D1, R220. -/
theorem test_modw_d1 : gives (step (busy .w32 .modw [0x10, 2, 0x20] [(0x10, 1), (0x11, 0), (0x20, 7)])) [] 4 = true
    := by
  decide +kernel

/-- Vector D4, R220. -/
theorem test_modw_d4 : ends (step (busy .w32 .modw [0x10, 1, 0x20] [(0x10, 5), (0x20, 0)])) (busy .w32 .modw [0x10,
    1, 0x20] [(0x10, 5), (0x20, 0)]) .divByZero = true := by
  decide +kernel

/-- Vector D5, R221. -/
theorem test_divmod_d5 : gives (step (busy .w32 .divmod [0x10, 3, 0x20, 2, 0x60, 0x70, 0x80] [(0x10, 0xffffffff),
    (0x11, 0xffffffff), (0x12, 0xffffffff), (0x20, 0x80000000), (0x21, 1)])) [(0x60, 1), (0x61, 0xffffffff), (0x70,
    0x7ffffffe), (0x71, 0)] 0 = true := by
  decide +kernel

/-- Vector D8, R221. -/
theorem test_divmod_d8 : ends (step (busy .w32 .divmod [0x10, 2, 0x20, 2, 0x60, 0x70, 0x80] [(0x10, 0), (0x11, 5),
    (0x20, 0x40000000), (0x21, 0)])) (busy .w32 .divmod [0x10, 2, 0x20, 2, 0x60, 0x70, 0x80] [(0x10, 0), (0x11, 5),
    (0x20, 0x40000000), (0x21, 0)]) .notNormalized = true := by
  decide +kernel

/-- Vector D10, R222. -/
theorem test_gcd_d10 : gives (step (busy .w32 .gcd [0x40, 0x10, 0x20, 1, 0x80] [(0x10, 0xc), (0x20, 0x12)]))
    [(0x40, 6)] 0 = true := by
  decide +kernel

/-- Vector D13, R222. -/
theorem test_gcd_d13 : gives (step (busy .w32 .gcd [0x40, 0x10, 0x20, 2, 0x80] [(0x10, 0), (0x11, 7), (0x20, 0),
    (0x21, 0)])) [(0x40, 0), (0x41, 7)] 0 = true := by
  decide +kernel

/-- Vector F1, R240. -/
theorem test_zero_f1 : gives (step (busy .w32 .zero [0x10, 2] [(0x10, 0xdeadbeef), (0x11, 0x1234567)])) [(0x10, 0),
    (0x11, 0)] 0 = true := by
  decide +kernel

/-- Vector X8, 20_memory.md R81. -/
theorem test_zero_x8 : ends (step (withSlot 0x100 1 (busy .w32 .zero [0xff, 2] [(0xff, 5), (0x100, 0xca1), (0x101,
    0x14455d), (0x102, 0x5b74f433)]))) (withSlot 0x100 1 (busy .w32 .zero [0xff, 2] [(0xff, 5), (0x100, 0xca1),
    (0x101, 0x14455d), (0x102, 0x5b74f433)])) .ctxClobber = true := by
  decide +kernel

/-- Vector F2, R241. -/
theorem test_copy_f2 : gives (step (busy .w32 .copy [0x40, 0x10, 1] [(0x10, 0x12345678)])) [(0x40, 0x12345678)] 0 =
    true := by
  decide +kernel

/-- Vector F4, R241. -/
theorem test_copy_f4 : ends (step (busy .w32 .copy [0x11, 0x10, 2] [])) (busy .w32 .copy [0x11, 0x10, 2] [])
    .overlap = true := by
  decide +kernel

/-- Vector B1, R250, R252. -/
theorem test_setmod_b1 : gives (step (busy .w32 (.setmod 0) [0x10, 1, 0x100, 0x80] [(0x10, 0xca1)])) [(0x100,
    0xca1), (0x101, 0x14455d), (0x102, 0x5b74f433)] 0 = true := by
  decide +kernel

/-- Vector B2, R252. -/
theorem test_setmod_b2 : gives (step (busy .w64 (.setmod 0) [0x10, 1, 0x100, 0x80] [(0x10, 0xca1)])) [(0x100,
    0xca1), (0x101, 0x14455d5b74f433), (0x102, 0xa0a9c4edddf37d30)] 0 = true := by
  decide +kernel

/-- Vector B30, R255. -/
theorem test_ctxclr_b30 : gives (step (withSlot 0x100 1 (busy .w32 (.ctxclr 0) [] [(0x100, 0xca1), (0x101,
    0x14455d), (0x102, 0x5b74f433)]))) [(0x100, 0xca1)] 0 = true := by
  decide +kernel

/-- Vector B11, R256. -/
theorem test_reduce_b11 : gives (step (withSlot 0x100 1 (busy .w32 (.reduce 0) [0x10, 2, 0x40, 0x80] [(0x10,
    0xffffffff), (0x11, 0xffffffff), (0x100, 0xca1), (0x101, 0x14455d), (0x102, 0x5b74f433)]))) [(0x40, 0x7ec)] 0 =
    true := by
  decide +kernel

/-- Vector B14, R256, R264. -/
theorem test_reduce_b14 : ends (step (withSlot 0x100 1 (busy .w32 (.reduce 0) [0x10, 3, 0x40, 0x80] [(0x10, 0),
    (0x11, 0), (0x12, 0), (0x100, 0xca1), (0x101, 0x14455d), (0x102, 0x5b74f433)]))) (withSlot 0x100 1 (busy .w32
    (.reduce 0) [0x10, 3, 0x40, 0x80] [(0x10, 0), (0x11, 0), (0x12, 0), (0x100, 0xca1), (0x101, 0x14455d), (0x102,
    0x5b74f433)])) .badLength = true := by
  decide +kernel

/-- Vector B16, R258. -/
theorem test_addmod_b16 : gives (step (withSlot 0x100 1 (busy .w32 (.addmod 0) [0x10, 1, 0x20, 1, 0x40, 0x80]
    [(0x10, 0xca0), (0x20, 0xca0), (0x100, 0xca1), (0x101, 0x14455d), (0x102, 0x5b74f433)]))) [(0x40, 0xc9f)] 0 =
    true := by
  decide +kernel

/-- Vector B17, R258, R264. -/
theorem test_addmod_b17 : gives (step (withSlot 0x100 1 (busy .w32 (.addmod 0) [0x10, 1, 0x20, 1, 0x40, 0x80]
    [(0x10, 0xca1), (0x20, 0), (0x100, 0xca1), (0x101, 0x14455d), (0x102, 0x5b74f433)]))) [(0x40, 0)] 0 = true := by
  decide +kernel

/-- Vector B18, R259. -/
theorem test_submod_b18 : gives (step (withSlot 0x100 1 (busy .w32 (.submod 0) [0x10, 1, 0x20, 1, 0x40, 0x80]
    [(0x10, 5), (0x20, 0xa), (0x100, 0xca1), (0x101, 0x14455d), (0x102, 0x5b74f433)]))) [(0x40, 0xc9c)] 0 = true := by
  decide +kernel

/-- Vector B19b, R259. -/
theorem test_submod_b19b : gives (step (withSlot 0x100 1 (busy .w32 (.submod 0) [0x10, 1, 0x20, 1, 0x40, 0x80]
    [(0x10, 0), (0x20, 0xffffffff), (0x100, 0xca1), (0x101, 0x14455d), (0x102, 0x5b74f433)]))) [(0x40, 0x81f)] 0 =
    true := by
  decide +kernel

/-- Vector B20, R260. -/
theorem test_mulmod_b20 : gives (step (withSlot 0x100 1 (busy .w32 (.mulmod 0) [0x10, 1, 0x20, 1, 0x40, 0x80]
    [(0x10, 0xbb8), (0x20, 0xbb8), (0x100, 0xca1), (0x101, 0x14455d), (0x102, 0x5b74f433)]))) [(0x40, 0xa01)] 0 =
    true := by
  decide +kernel

/-- Vector B29, R263, on slot 0. -/
theorem test_mulmod_b29 : ends (step (busy .w32 (.mulmod 0) [0x10, 1, 0x20, 1, 0x40, 0x80] [])) (busy .w32 (.mulmod
    0) [0x10, 1, 0x20, 1, 0x40, 0x80] []) .ctxInvalid = true := by
  decide +kernel

/-- Vector B23, R261. -/
theorem test_sqrmod_b23 : gives (step (withSlot 0x100 1 (busy .w32 (.sqrmod 0) [0x10, 1, 0x40, 0x80] [(0x10,
    0xca0), (0x100, 0xca1), (0x101, 0x14455d), (0x102, 0x5b74f433)]))) [(0x40, 1)] 0 = true := by
  decide +kernel

/-- Vector B24, R262. -/
theorem test_invmod_b24 : gives (step (withSlot 0x100 1 (busy .w32 (.invmod 0) [0x10, 1, 0x40, 0x80] [(0x10, 0x11),
    (0x40, 0xaaaaaaaa), (0x100, 0xca1), (0x101, 0x14455d), (0x102, 0x5b74f433)]))) [(0x40, 0x82c)] 1 = true := by
  decide +kernel

/-- Vector B25, R262. -/
theorem test_invmod_b25 : gives (step (withSlot 0x100 1 (busy .w32 (.invmod 0) [0x10, 1, 0x40, 0x80] [(0x10, 0x3d),
    (0x40, 0xaaaaaaaa), (0x100, 0xca1), (0x101, 0x14455d), (0x102, 0x5b74f433)]))) [(0x40, 0xaaaaaaaa)] 0 = true := by
  decide +kernel

/-- Vector E1, R294. -/
theorem test_slide_e1 : gives (step (withSlot 0x100 1 (busy .w32 (.slide 0) [0x10, 1, 0x60, 0x80] [(0x10, 0x41),
    (0x100, 0xca1), (0x101, 0x14455d), (0x102, 0x5b74f433)]))) [(0x60, 0x41), (0x61, 0xbed), (0x62, 0x9b8), (0x63,
    0x525), (0x64, 0x14c), (0x65, 0xafb), (0x66, 0x682), (0x67, 0x261)] 0 = true := by
  decide +kernel

/-- Vector E22, R294. -/
theorem test_slide_e22 : ends (step (withSlot 0x100 1 (busy .w32 (.slide 0) [0x10, 1, 0x60, 0x62] [(0x10, 0x41),
    (0x100, 0xca1), (0x101, 0x14455d), (0x102, 0x5b74f433)]))) (withSlot 0x100 1 (busy .w32 (.slide 0) [0x10, 1,
    0x60, 0x62] [(0x10, 0x41), (0x100, 0xca1), (0x101, 0x14455d), (0x102, 0x5b74f433)])) .overlap = true := by
  decide +kernel

/-- Vector E7, R295. -/
theorem test_powmod_e7 : gives (step (withSlot 0x100 1 (busy .w32 (.powmod 0) [0x10, 1, 0x20, 1, 0x40, 0x80]
    [(0x10, 0x41), (0x20, 0x11), (0x100, 0xca1), (0x101, 0x14455d), (0x102, 0x5b74f433)]))) [(0x40, 0xae6)] 0 =
    true := by
  decide +kernel

/-- Vector E2b, R295. -/
theorem test_powmod_e2b : gives (step (withSlot 0x100 1 (busy .w32 (.powmod 0) [0x10, 1, 0x20, 1, 0x40, 0x80]
    [(0x10, 0), (0x20, 0), (0x100, 0xca1), (0x101, 0x14455d), (0x102, 0x5b74f433)]))) [(0x40, 1)] 0 = true := by
  decide +kernel

/-- Vector E10, R296. -/
theorem test_powsld_e10 : gives (step (withSlot 0x100 1 (busy .w32 (.powsld 0) [0x60, 0x20, 1, 0x40, 0x80] [(0x60,
    0x41), (0x61, 0xbed), (0x62, 0x9b8), (0x63, 0x525), (0x64, 0x14c), (0x65, 0xafb), (0x66, 0x682), (0x67, 0x261),
    (0x20, 0x11), (0x100, 0xca1), (0x101, 0x14455d), (0x102, 0x5b74f433)]))) [(0x40, 0xae6)] 0 = true := by
  decide +kernel

/-- Vector E11, R296. -/
theorem test_powsld_e11 : gives (step (withSlot 0x100 1 (busy .w32 (.powsld 0) [0x60, 0x20, 1, 0x40, 0x80] [(0x60,
    1), (0x61, 2), (0x62, 3), (0x63, 4), (0x64, 5), (0x65, 6), (0x66, 7), (0x67, 8), (0x20, 0x2d), (0x100, 0xca1),
    (0x101, 0x14455d), (0x102, 0x5b74f433)]))) [(0x40, 0x510)] 0 = true := by
  decide +kernel

/-- Vector E17, R297. -/
theorem test_pow2_e17 : gives (step (withSlot 0x100 1 (busy .w32 (.pow2 0) [0x20, 1, 0x40, 0x80] [(0x20, 0xa),
    (0x100, 0xca1), (0x101, 0x14455d), (0x102, 0x5b74f433)]))) [(0x40, 0x400)] 0 = true := by
  decide +kernel

/-- Vector E20, R297. -/
theorem test_pow2_e20 : gives (step (withSlot 0x100 1 (busy .w32 (.pow2 0) [0x20, 1, 0x40, 0x80] [(0x20,
    0xffffffff), (0x100, 0xca1), (0x101, 0x14455d), (0x102, 0x5b74f433)]))) [(0x40, 0x956)] 0 = true := by
  decide +kernel

/-- Vector G1, R323, first attempt. -/
theorem test_rnd_g1_rejects : rejects (step (withDraws [0xffffffff, 0x12345678] (withSlot 0x100 1 (busy .w32 (.rnd
    0) [0x40] [(0x100, 0xca1), (0x101, 0x14455d), (0x102, 0x5b74f433)])))) [0x12345678] = true := by
  decide +kernel

/-- Vector G1, R323, second attempt. -/
theorem test_rnd_g1_accepts : gives (step (withDraws [0x12345678] (withSlot 0x100 1 (busy .w32 (.rnd 0) [0x40]
    [(0x100, 0xca1), (0x101, 0x14455d), (0x102, 0x5b74f433)])))) [(0x40, 0x678)] 0 = true := by
  decide +kernel

/-- Vector G6, R324, second attempt. -/
theorem test_rndodd_g6 : gives (step (withDraws [0x10] (withSlot 0x100 1 (busy .w32 (.rndodd 0) [0x40] [(0x100,
    0xca1), (0x101, 0x14455d), (0x102, 0x5b74f433)])))) [(0x40, 0x11)] 0 = true := by
  decide +kernel

/-- Vector G7, R324. -/
theorem test_rndodd_g7 : rejects (step (withDraws [0xca0] (withSlot 0x100 1 (busy .w32 (.rndodd 0) [0x40] [(0x100,
    0xca1), (0x101, 0x14455d), (0x102, 0x5b74f433)])))) [] = true := by
  decide +kernel

/-- Vector G9, R325, second attempt. -/
theorem test_rndinv_g9 : gives (step (withDraws [0x11] (withSlot 0x100 1 (busy .w32 (.rndinv 0) [0x40, 0x50, 0x80]
    [(0x100, 0xca1), (0x101, 0x14455d), (0x102, 0x5b74f433)])))) [(0x40, 0x11), (0x50, 0x82c)] 0 = true := by
  decide +kernel

/-- Vector G10, R325, on slot 0. -/
theorem test_rndinv_g10 : ends (step (withDraws [7] (withSlot 0x100 1 (busy .w32 (.rndinv 0) [0x40, 0x50, 0x80]
    [(0x100, 0x1000), (0x101, 0x100000), (0x102, 0)])))) (withDraws [7] (withSlot 0x100 1 (busy .w32 (.rndinv 0)
    [0x40, 0x50, 0x80] [(0x100, 0x1000), (0x101, 0x100000), (0x102, 0)]))) .evenModulus = true := by
  decide +kernel

/-! ## The host's side -/

/-- A host access has taken effect and the state satisfies `p`. -/
def after (o : Out) (p : State → Bool) : Bool :=
  match o with
  | .next t => p t
  | .fault _ => false
  | .refused _ => false

/-- Vector H1. -/
theorem test_id_h1 :
    (idle .w32 [] []).readReg 0x00 = 0x57010420 ∧ (idle .w64 [] []).readReg 0x00 = 0x57010440 := by
  decide +kernel

/-- Vector H4: an ARG write while busy is ignored and sets OVR. -/
theorem test_arg_overrun_h4 :
    after ((busy .w32 .add [1, 2, 3] []).hostAccess (.regWrite 0x20 32 9))
      (fun t => t.readReg 0x20 == 1 && t.readReg 0x0C == 0x00000009) = true := by
  decide +kernel

/-- Vector H5: writing 8 to STATUS clears OVR alone. -/
theorem test_status_clear_h5 :
    after ({ idle .w32 [] [] with done := true, ovr := true }.hostAccess (.regWrite 0x0C 32 8))
      (fun t => t.readReg 0x0C == 0x00000002) = true := by
  decide +kernel

/-- P4 rows 1 and 2, as 10_state.md R43 words it (log 22): ACK of an error clears DONE and ERR and keeps ERRCODE. -/
theorem test_ack_keeps_errcode :
    after ({ idle .w32 [] [] with done := true, err := true, errCode := .reservedField }.hostAccess
      (.regWrite 0x0C 32 6)) (fun t => t.readReg 0x0C == 0x00000200) = true := by
  decide +kernel

/-- Vector H7: a host write inside the region of slot 0 clears CTXVALID, and BASE and N stay. -/
theorem test_invalidation_h7 :
    after ((withSlot 0x100 1 (idle .w32 [] [])).hostAccess (.lm (.write 0x101 0)))
      (fun t => t.readReg 0x1C == 0 && t.readReg 0x40 == 0x100 && t.readReg 0x44 == 1) = true := by
  decide +kernel

/-- 20_memory.md R82: the word after the region does not invalidate. -/
theorem test_no_invalidation_past_region :
    after ((withSlot 0x100 1 (idle .w32 [] [])).hostAccess (.lm (.write 0x103 0))) (fun t => t.readReg 0x1C == 1) =
      true := by
  decide +kernel

/-- Vector H8: soft reset with no command pending keeps the memory. -/
theorem test_soft_reset_h8 :
    after ((withSlot 0x100 1 (idle .w32 [5] [(0x100, 0xCA1)])).hostAccess (.regWrite 0x08 32 2))
      (fun t => t.readReg 0x1C == 0 && t.readReg 0x20 == 0 && t.readReg 0x14 == 0 && t.word 0x100 == 0xCA1) = true := by
  decide +kernel

/-- 30_encoding.md R112: `LMWB` writes the most significant word first. -/
theorem test_lmwb_order : lmwb (2 ^ 32) 0x10 2 0x0000000100000002 = [lmw 0x10 1, lmw 0x11 2] := by decide +kernel

/-! ## A witness for the hypotheses of every statement that has some -/

/-- Words 0x10 to 0x12 and 0x20 to 0x22 of the operands below. -/
def operands : List (Nat × Nat) :=
  [(0x10, 1), (0x11, 0), (0x12, 7), (0x20, 0x80000000), (0x21, 1), (0x22, 0)]

/-- The words of slot 0 with modulus 3233 (vector B1), and operands. -/
def slotWords : List (Nat × Nat) := (0x100, 0xCA1) :: (0x101, 0x0014455D) :: (0x102, 0x5B74F433) :: operands

/-- Command `i` accepted on a unit whose slot 0 holds 3233. -/
def onSlot (i : Instr) (args : List Nat) : State := withSlot 0x100 1 (busy .w32 i args slotWords)

theorem witness_decodeChecks_unlisted : ¬(1 ≤ (0x0000000F#32).toNat % 2 ^ 8 ∧ (0x0000000F#32).toNat % 2 ^ 8 ≤ 0x0E)
    := by
  decide

theorem witness_decodeChecks_reserved :
    (0x40 ≤ (0x00000140#32).toNat % 2 ^ 8 ∧ (0x00000140#32).toNat % 2 ^ 8 ≤ 0x4A) ∧
      (0x00000140#32).toNat / 2 ^ 8 % 4 ≠ 0 := by decide

theorem witness_decodeChecks_command :
    (0xA0 ≤ (0x000003A2#32).toNat % 2 ^ 8 ∧ (0x000003A2#32).toNat % 2 ^ 8 ≤ 0xA2) ∧
      (0x000003A2#32).toNat / 2 ^ 10 = 0 := by decide

/-- StepRunsDecodedCommand, a command word, with the turn given and with no turn left. -/
theorem witness_stepRuns_command :
    ({ busy .w32 .add [] [] with turns := [.unit] }.turns = [.unit]) ∧ (busy .w32 .add [] []).turns = [] ∧
      (busy .w32 .add [] []).pending.map (fun p => decode p.cmd) = some (.ok .add) := by decide +kernel

/-- StepRunsDecodedCommand, a word that is no command: vector X1. -/
theorem witness_stepRuns_illegal :
    ((idle .w32 [] []).accept 0).pending.map (fun p => decode p.cmd) = some (.error .illegalOpcode) := by decide +kernel

/-- Vector X1 through a step: STATUS ends as 0x00000106. -/
theorem test_step_illegal_x1 :
    after (step ((idle .w32 [] []).accept 0)) (fun t => t.readReg 0x0C == 0x00000106) = true := by decide +kernel

/-- StepRunsDecodedCommand, the idle unit; CmdWrite, ArgWrite and LmPort, the idle unit. -/
theorem witness_idle : (idle .w32 [] []).pending = none ∧ (idle .w32 [] []).held = [] := by decide +kernel

/-- CmdWrite, ArgWrite and LmAccessIsHeldWhileBusy, the busy unit. -/
theorem witness_busy : (busy .w32 .add [] []).pending ≠ none := by decide +kernel

/-- StepTakesTurnsInOrder: a held access of an idle unit; then each kind of turn. -/
theorem witness_held :
    ({ idle .w32 [] [] with held := [.read 5] }.pending = none) ∧ ({ idle .w32 [] [] with held := [.read 5] }.held =
        [.read 5]) := by
  decide +kernel

theorem witness_turns :
    ({ idle .w32 [] [] with turns := [.host (.regRead 0 32)] }.held = []) ∧
      ({ busy .w32 .add [] [] with held := [.read 5], turns := [.random 7] }.pending ≠ none) ∧
        ({ busy .w32 .add [] [] with turns := [.powerOn] }.turns = [.powerOn]) := by decide +kernel

/-- CtrlAndStatusWrites and SoftResetClears: bit 1 of the word written to CTRL. -/
theorem witness_ctrl : (0x00000001#32).getLsbD 1 = false ∧ (0x00000003#32).getLsbD 1 = true := by decide

/-- SoftResetClears, an aborted command that passes its checks, and a word it may not write. -/
theorem witness_softReset_abort :
    (idle .w32 [] []).held = [] ∧ (busy .w32 .zero [0x10, 2] []).held = [] ∧
      (formZero (busy .w32 .zero [0x10, 2] [])).firstError (busy .w32 .zero [0x10, 2] []) = .noError ∧
        (formZero (busy .w32 .zero [0x10, 2] [])).bufs.all (fun b => decide (b.addr + b.len ≤ 0x12)) = true := by
  decide +kernel

/-- SoftResetClears, its clauses on held accesses: words 0 and 4095 (the last) are written, word 4096 does not exist,
a later read of word 0 follows its last write, and word 0x20 is outside what the aborted ZERO may write. -/
theorem witness_softReset_held :
    let s := { busy .w32 .zero [0x10, 2] [] with
      held := [.write 0 5, .write 0 6, .read 0, .write 4095 7, .write 4096 8, .read 4096] }
    s.held = [.write 0 5, .write 0 6] ++ .read 0 :: [.write 4095 7, .write 4096 8, .read 4096] ∧
      s.wordAfter s.held 0 = 6 ∧ s.wordAfter s.held 4095 = 7 ∧ s.wordAfter s.held 4096 = s.word 4096 ∧
        s.wordAfter s.held 0x20 = s.word 0x20 ∧ ∀ b ∈ (formZero s).bufs, b.addr + b.len ≤ 0x20 := by
  refine ⟨rfl, by decide +kernel, by decide +kernel, by rfl, by rfl, by decide +kernel⟩

/-- The held accesses of that state take effect at the soft reset, in order, and the reads are answered. -/
theorem test_soft_reset_releases_held :
    after ({ busy .w32 .zero [0x10, 2] [] with
        held := [.write 0 5, .write 0 6, .read 0, .write 4095 7, .write 4096 8, .read 4096] }.hostAccess
          (.regWrite 0x08 32 2))
      (fun t => t.word 0 == 6 && t.word 4095 == 7 && decide (t.held = []) &&
        decide (t.replies = [.lm 0 6, .lm 4096 0])) = true := by decide +kernel

theorem witness_admitted : (idle .w32 [] []).params.Admitted ∧ (idle .w64 [] []).params.Admitted := by
  unfold Params.Admitted; decide +kernel

/-- ResultAndSlotRegistersRead, both widths. -/
theorem witness_widths : (idle .w32 [] []).params.width = .w32 ∧ (idle .w64 [] []).params.width = .w64 := by decide

/-- OtherWritesAreIgnored, each range at its ends. -/
theorem witness_ignored_offsets :
    (0x04 % 4 = 0 ∧ 0x04 < 0x08) ∧ (0x14 % 4 = 0 ∧ 0x1C % 4 = 0 ∧ 0x1C < 0x20) ∧ (0x40 % 4 = 0 ∧ 0x60 % 4 = 0) := by
        decide

/-- BadRegisterAccessIsRefused, by width and by offset. -/
theorem witness_bad_access : (64 ≠ 32 ∨ 8 % 4 ≠ 0) ∧ (32 ≠ 32 ∨ 6 % 4 ≠ 0) := by decide

/-- LmPort: the last word of the memory and the first past it. -/
theorem witness_lm_end : 4095 < (idle .w32 [] []).params.lmWords ∧ (idle .w32 [] []).params.lmWords ≤ 4096 := by decide

/-! Each step of the checks, failing after the earlier ones pass. -/

theorem witness_checks_slot : ¬(formReduce (busy .w32 (.reduce 0) [0, 0] []) 0).SlotPasses (busy .w32 (.reduce 0) [0,
    0] []) := by
  rw [← Form.slotInvalid_false]; decide +kernel

/-- Vector X6: the slot check comes before the length check. -/
theorem test_x6_slot_before_length :
    ends (step (busy .w32 (.reduce 3) [] [])) (busy .w32 (.reduce 3) [] []) .ctxInvalid = true := by decide +kernel

theorem witness_checks_length :
    (formReduce (onSlot (.reduce 0) [0x10, 3]) 0).SlotPasses (onSlot (.reduce 0) [0x10, 3]) ∧
      ¬(formReduce (onSlot (.reduce 0) [0x10, 3]) 0).LengthsPass := by
  rw [← Form.slotInvalid_false, ← Form.lengths_ok]; decide +kernel

/-- Vector X7: the range check comes before the value check. -/
theorem witness_checks_range :
    (formModw (busy .w32 .modw [4095, 2, 0x20] [])).SlotPasses (busy .w32 .modw [4095, 2, 0x20] []) ∧
      (formModw (busy .w32 .modw [4095, 2, 0x20] [])).LengthsPass ∧
        ¬(formModw (busy .w32 .modw [4095, 2, 0x20] [])).RangePasses (busy .w32 .modw [4095, 2, 0x20] []) := by
  rw [← Form.slotInvalid_false, ← Form.lengths_ok, ← Form.range_ok]; decide +kernel

theorem witness_checks_overlap :
    (formCopy (busy .w32 .copy [0x11, 0x10, 2] [])).SlotPasses (busy .w32 .copy [0x11, 0x10, 2] []) ∧
      (formCopy (busy .w32 .copy [0x11, 0x10, 2] [])).LengthsPass ∧
        (formCopy (busy .w32 .copy [0x11, 0x10, 2] [])).RangePasses (busy .w32 .copy [0x11, 0x10, 2] []) ∧
          ¬(formCopy (busy .w32 .copy [0x11, 0x10, 2] [])).OverlapPasses := by
  rw [← Form.slotInvalid_false, ← Form.lengths_ok, ← Form.range_ok, ← Form.overlap_ok]; decide +kernel

theorem witness_checks_protection :
    (formZero (onSlot .zero [0xFF, 2])).SlotPasses (onSlot .zero [0xFF, 2]) ∧
      (formZero (onSlot .zero [0xFF, 2])).LengthsPass ∧ (formZero (onSlot .zero [0xFF, 2])).RangePasses (onSlot .zero
          [0xFF, 2]) ∧
        (formZero (onSlot .zero [0xFF, 2])).OverlapPasses ∧
          ¬(formZero (onSlot .zero [0xFF, 2])).ProtectionPasses (onSlot .zero [0xFF, 2]) := by
  rw [← Form.slotInvalid_false, ← Form.lengths_ok, ← Form.range_ok, ← Form.overlap_ok, ← Form.protection_ok]
  decide +kernel

/-- The common checks pass when the first five steps do. -/
theorem commonPass_of {f : Form} {s : State} (h : { f with value := .noError }.firstError s = .noError) :
    f.CommonPass s := ((Form.firstError_noError _ s).1 h).1

/-- ChecksReportFirstFailure and ValueChecksEndCommands: MODW by a zero word. -/
theorem witness_value_modw :
    (formModw (busy .w32 .modw [0x10, 2, 0x21] [(0x21, 0)])).CommonPass (busy .w32 .modw [0x10, 2, 0x21] [(0x21, 0)]) ∧
      (formModw (busy .w32 .modw [0x10, 2, 0x21] [(0x21, 0)])).value ≠ .noError ∧
        (busy .w32 .modw [0x10, 2, 0x21] [(0x21, 0)]).word ((busy .w32 .modw [0x10, 2, 0x21] [(0x21, 0)]).arg 2) = 0 :=
  ⟨commonPass_of (by decide +kernel), by decide +kernel, by decide +kernel⟩

/-- ValueChecksEndCommands: a divisor one below the normalized ones. -/
theorem witness_value_divmod :
    let s := busy .w32 .divmod [0x10, 2, 0x20, 1, 0x30, 0x40, 0x50] [(0x20, 0x7FFFFFFF)]
    (formDivmod s).CommonPass s ∧ s.val (s.arg 2) (s.arg 3) < 2 ^ (s.arg 3 * s.wordBits - 1) :=
  ⟨commonPass_of (by decide +kernel), by decide +kernel⟩

/-- ValueChecksEndCommands: the modulus 1, of one word (vector B9), and `B`, of two (vector B7). -/
theorem witness_value_setmod :
    (let s := busy .w32 (.setmod 0) [0x10, 1, 0x20, 0x30] [(0x10, 1)]
     (formSetmod s 0).CommonPass s ∧
       ¬(s.radix ^ (s.arg 1 - 1) < s.val (s.arg 0) (s.arg 1) ∧ s.val (s.arg 0) (s.arg 1) < s.radix ^ s.arg 1)) ∧
      (let s := busy .w32 (.setmod 0) [0x10, 2, 0x20, 0x30] [(0x10, 1), (0x11, 0)]
       (formSetmod s 0).CommonPass s ∧ ¬s.radix ^ (s.arg 1 - 1) < s.val (s.arg 0) (s.arg 1)) :=
  ⟨⟨commonPass_of (by decide +kernel), by decide +kernel⟩, commonPass_of (by decide +kernel), by decide +kernel⟩

/-- ValueChecksEndCommands: an even modulus, 4, for INVMOD and RNDINV. -/
theorem witness_value_even :
    let s := withSlot 0x100 1 (busy .w32 (.invmod 0) [0x10, 1, 0x20, 0x30] [(0x10, 1), (0x100, 4)])
    (formInvmod s 0).CommonPass s ∧ (formRndinv s 0).CommonPass s ∧ s.modulus 0 % 2 = 0 := by
  exact ⟨commonPass_of (by decide +kernel), commonPass_of (by decide +kernel), by decide +kernel⟩

/-- ValueChecksEndCommands: the modulus 3 is below every least modulus, and 4 below RNDODD's. -/
theorem witness_value_range :
    (let s := withSlot 0x100 1 (busy .w32 (.rnd 0) [0x10, 0x20, 0x30] [(0x100, 3)])
     (formRnd s 0 4).CommonPass s ∧ (formRnd s 0 5).CommonPass s ∧ (formRndinv s 0).CommonPass s ∧ s.modulus 0 < 4 ∧
       s.modulus 0 % 2 = 1) ∧
      (let s := withSlot 0x100 1 (busy .w32 (.rndodd 0) [0x10] [(0x100, 4)])
       (formRnd s 0 5).CommonPass s ∧ s.modulus 0 < 5 ∧ ¬s.modulus 0 < 4) :=
  ⟨⟨commonPass_of (by decide +kernel), commonPass_of (by decide +kernel), commonPass_of (by decide +kernel),
      by decide +kernel, by decide +kernel⟩, commonPass_of (by decide +kernel), by decide +kernel, by decide +kernel⟩

/-- EmptySlotIsCtxInvalid, BadLengthsEndCommands. -/
theorem witness_empty_slot : ((idle .w32 [] []).slot 3).valid = false := by decide +kernel

theorem witness_bad_lengths :
    (busy .w32 .eq [0x10, 0x20, 0] []).arg 2 = 0 ∧ (busy .w32 .not [0x10, 0] []).arg 1 = 0 ∧
      (busy .w32 .gcd [0, 0, 0, 0] []).arg 3 = 0 ∧
        ((busy .w32 .addx [0x10, 1, 0x20, 2] []).arg 1 < (busy .w32 .addx [0x10, 1, 0x20, 2] []).arg 3) ∧
          (busy .w32 .mul [0, 0, 1, 0, 0] []).arg 4 = 0 := by decide +kernel

/-- BadLengthsEndCommands on a valid slot of one word: each bound, one above it, and zero lengths. -/
theorem witness_bad_slot_lengths :
    ((onSlot (.reduce 0) [0x10, 3]).slot 0).valid = true ∧ (onSlot (.reduce 0) [0x10, 0]).arg 1 = 0 ∧
      2 * (onSlot (.reduce 0) [0x10, 3]).slotN 0 < (onSlot (.reduce 0) [0x10, 3]).arg 1 ∧
        (onSlot (.powmod 0) [0x10, 2]).slotN 0 < (onSlot (.powmod 0) [0x10, 2]).arg 1 ∧
          (onSlot (.powmod 0) [0x10, 1, 0x20, 0]).arg 3 = 0 ∧
            (onSlot (.mulmod 0) [0x10, 1, 0x20, 2]).slotN 0 < (onSlot (.mulmod 0) [0x10, 1, 0x20, 2]).arg 3 ∧
              (onSlot (.powsld 0) [0x60, 0x20, 0]).arg 2 = 0 := by decide +kernel

/-- Command `i` with these arguments, on the unit whose slot 0 holds 3233, ends with error `e`. -/
def refuses (e : ErrorCode) (i : Instr) (args : List Nat) : Bool := ends (step (onSlot i args)) (onSlot i args) e

/-- 20_memory.md R77: one buffer of each command ends one word past the memory of 4096 words. -/
theorem test_range_by_one_word :
    refuses .outOfRange .eq [4095, 0, 2] ∧ refuses .outOfRange .ltx [0, 1, 4095, 2] ∧
      refuses .outOfRange .xor [0, 4095, 2] ∧ refuses .outOfRange .neg [4095, 2] ∧
        refuses .outOfRange .clz [4095, 2] ∧ refuses .outOfRange .subx [4095, 2, 0, 1] ∧
          refuses .outOfRange .addmul [0, 0x10, 2, 4096] ∧ refuses .outOfRange .mul [4094, 0x10, 1, 0x20, 2] ∧
            refuses .outOfRange .sqr [4093, 0x10, 2] ∧ refuses .outOfRange .modw [0, 2, 4096] ∧
              refuses .outOfRange .divmod [0x10, 3, 0x20, 1, 0x30, 0x40, 4091] ∧
                refuses .outOfRange .gcd [0x40, 0x10, 0x20, 1, 4095] ∧ refuses .outOfRange .copy [4095, 0x10, 2] ∧
                  refuses .outOfRange (.setmod 1) [0x10, 1, 0x20, 4088] ∧
                    refuses .outOfRange (.reduce 0) [0x10, 2, 0x40, 4093] ∧
                      refuses .outOfRange (.addmod 0) [0x10, 1, 0x20, 1, 0x40, 4091] ∧
                        refuses .outOfRange (.sqrmod 0) [0x10, 1, 0x40, 4091] ∧
                          refuses .outOfRange (.invmod 0) [0x10, 1, 0x40, 4085] ∧
                            refuses .outOfRange (.slide 0) [0x10, 1, 4089, 0x40] ∧
                              refuses .outOfRange (.powmod 0) [0x10, 1, 0x20, 1, 0x40, 4083] ∧
                                refuses .outOfRange (.powsld 0) [4089, 0x20, 1, 0x40, 0x80] ∧
                                  refuses .outOfRange (.pow2 0) [0x20, 1, 0x40, 4091] ∧
                                    refuses .outOfRange (.rnd 0) [4096] ∧
                                      refuses .outOfRange (.rndinv 0) [0x40, 0x50, 4085] := by
  decide +kernel

/-- 20_memory.md R80: two buffers of a command without a slot, or of SETMOD, share one word. -/
theorem test_overlap_by_one_word :
    refuses .overlap .and [0x10, 0x11, 2] ∧ refuses .overlap .addx [0x10, 3, 0x12, 1] ∧
      refuses .overlap .setmul [0x10, 0x11, 2, 0x30] ∧ refuses .overlap .setmul [0x10, 0x20, 2, 0x11] ∧
        refuses .overlap .addmul [0x10, 0x10, 2, 0x11] ∧ refuses .overlap .mul [0x10, 0x11, 1, 0x20, 1] ∧
          refuses .overlap .mul [0x10, 0x20, 1, 0x11, 1] ∧ refuses .overlap .sqr [0x10, 0x11, 1] ∧
            refuses .overlap .copy [0x10, 0x11, 2] ∧
    refuses .overlap .divmod [0x10, 2, 0x20, 1, 0x11, 0x40, 0x50] ∧
      refuses .overlap .divmod [0x10, 2, 0x20, 1, 0x1F, 0x40, 0x50] ∧
        refuses .overlap .divmod [0x10, 2, 0x20, 1, 0x30, 0x11, 0x50] ∧
          refuses .overlap .divmod [0x10, 2, 0x20, 1, 0x30, 0x20, 0x50] ∧
            refuses .overlap .divmod [0x10, 2, 0x20, 1, 0x30, 0x40, 0x11] ∧
              refuses .overlap .divmod [0x10, 2, 0x20, 1, 0x30, 0x40, 0x1C] ∧
                refuses .overlap .divmod [0x10, 2, 0x20, 1, 0x30, 0x31, 0x50] ∧
                  refuses .overlap .divmod [0x10, 2, 0x20, 1, 0x30, 0x40, 0x31] ∧
                    refuses .overlap .divmod [0x10, 2, 0x20, 1, 0x30, 0x40, 0x3C] ∧
    refuses .overlap .gcd [0x10, 0x20, 0x30, 1, 0xF] ∧ refuses .overlap .gcd [0x10, 0x20, 0x30, 1, 0x1F] ∧
      refuses .overlap .gcd [0x10, 0x20, 0x30, 1, 0x2F] ∧ refuses .overlap (.setmod 1) [0x11, 1, 0x10, 0x40] ∧
        refuses .overlap (.setmod 1) [0x10, 1, 0x20, 8] ∧ refuses .overlap (.setmod 1) [0x10, 1, 0x20, 0x18] := by
  decide +kernel

/-- 20_memory.md R80: two buffers of a slot command share one word. -/
theorem test_slot_overlap_by_one_word :
    refuses .overlap (.reduce 0) [0x10, 2, 0x40, 0x11] ∧ refuses .overlap (.reduce 0) [0x10, 2, 0x40, 0x3D] ∧
      refuses .overlap (.addmod 0) [0x10, 1, 0x20, 1, 0x40, 0xB] ∧
        refuses .overlap (.submod 0) [0x10, 1, 0x20, 1, 0x40, 0x1B] ∧
          refuses .overlap (.mulmod 0) [0x10, 1, 0x20, 1, 0x40, 0x3B] ∧
    refuses .overlap (.sqrmod 0) [0x10, 1, 0x40, 0xB] ∧ refuses .overlap (.sqrmod 0) [0x10, 1, 0x40, 0x3B] ∧
      refuses .overlap (.invmod 0) [0x10, 1, 0x40, 5] ∧ refuses .overlap (.invmod 0) [0x10, 1, 0x40, 0x35] ∧
        refuses .overlap (.slide 0) [0x10, 1, 9, 0x40] ∧ refuses .overlap (.slide 0) [0x10, 1, 0x30, 0x37] ∧
          refuses .overlap (.slide 0) [0x10, 1, 0x30, 0xB] ∧
    refuses .overlap (.powmod 0) [0x20, 1, 0x30, 1, 0x40, 0x13] ∧
      refuses .overlap (.powmod 0) [0x20, 1, 0x30, 1, 0x40, 0x23] ∧
        refuses .overlap (.powmod 0) [0x20, 1, 0x30, 1, 0x40, 0x33] ∧
          refuses .overlap (.powsld 0) [0x60, 0x20, 1, 0x40, 0x67] ∧
            refuses .overlap (.powsld 0) [0x60, 0x20, 1, 0x40, 0x1B] ∧
              refuses .overlap (.powsld 0) [0x60, 0x20, 1, 0x40, 0x3B] ∧
    refuses .overlap (.pow2 0) [0x20, 1, 0x40, 0x1B] ∧ refuses .overlap (.pow2 0) [0x20, 1, 0x40, 0x3B] ∧
      refuses .overlap (.rndinv 0) [0x40, 0x40, 0x80] ∧ refuses .overlap (.rndinv 0) [0x40, 0x50, 0x35] ∧
        refuses .overlap (.rndinv 0) [0x40, 0x50, 0x45] := by
  decide +kernel

/-- 20_memory.md R81: a written buffer of each command shares one word, 0x100 or 0x102, with the region of slot 0. -/
theorem test_clobber_by_one_word :
    refuses .ctxClobber .or [0xFF, 0x10, 2] ∧ refuses .ctxClobber .halve [0x102, 1] ∧
      refuses .ctxClobber .subx [0xFF, 2, 0x10, 1] ∧ refuses .ctxClobber .setmul [0x102, 0x10, 2, 0x20] ∧
        refuses .ctxClobber .mul [0xFF, 0x10, 1, 0x20, 1] ∧ refuses .ctxClobber .sqr [0x102, 0x10, 1] ∧
          refuses .ctxClobber .divmod [0x10, 2, 0x20, 1, 0xFF, 0x40, 0x50] ∧
            refuses .ctxClobber .divmod [0x10, 2, 0x20, 1, 0x30, 0x102, 0x50] ∧
              refuses .ctxClobber .divmod [0x10, 2, 0x20, 1, 0x30, 0x40, 0xFC] ∧
                refuses .ctxClobber .gcd [0x100, 0x10, 0x20, 1, 0x40] ∧
                  refuses .ctxClobber .gcd [0x30, 0x10, 0x20, 1, 0xFF] ∧ refuses .ctxClobber .copy [0x102, 0x10, 1] ∧
    refuses .ctxClobber (.setmod 1) [0x10, 1, 0xFE, 0x40] ∧ refuses .ctxClobber (.setmod 1) [0x10, 1, 0x20, 0xF8] ∧
      refuses .ctxClobber (.reduce 0) [0x10, 2, 0x100, 0x40] ∧ refuses .ctxClobber (.reduce 0) [0x10, 2, 0x40, 0xFD] ∧
        refuses .ctxClobber (.mulmod 0) [0x10, 1, 0x20, 1, 0x102, 0x40] ∧
          refuses .ctxClobber (.sqrmod 0) [0x10, 1, 0x40, 0x102] ∧
            refuses .ctxClobber (.invmod 0) [0x10, 1, 0x40, 0xF5] ∧
              refuses .ctxClobber (.slide 0) [0x10, 1, 0xF9, 0x40] ∧
                refuses .ctxClobber (.powmod 0) [0x10, 1, 0x20, 1, 0x40, 0xF3] ∧
                  refuses .ctxClobber (.powsld 0) [0x60, 0x20, 1, 0x102, 0x80] ∧
                    refuses .ctxClobber (.pow2 0) [0x20, 1, 0x40, 0xFB] ∧ refuses .ctxClobber (.rndodd 0) [0x100] ∧
                      refuses .ctxClobber (.rndinv 0) [0x40, 0x102, 0x50] := by
  decide +kernel

/-- ChecksReportFirstFailure, its clauses in argument registers: MUL with R on X, MULMOD with its workspace on Y, and
REDUCE with R on the slot's own region, each with lengths in their bounds and every buffer in the memory. -/
theorem witness_buffer_checks :
    (let s := onSlot .mul [0x10, 0x11, 1, 0x20, 1]
     1 ≤ s.arg 2 ∧ 1 ≤ s.arg 4 ∧ Meet (s.arg 0, s.arg 2 + s.arg 4) (s.arg 1, s.arg 2) ∧
       s.Fits (s.arg 0) (s.arg 2 + s.arg 4) ∧ s.Fits (s.arg 1) (s.arg 2) ∧ s.Fits (s.arg 3) (s.arg 4)) ∧
      (let s := onSlot (.mulmod 0) [0x10, 1, 0x20, 1, 0x40, 0x1B]
       (s.slot 0).valid = true ∧ 1 ≤ s.arg 1 ∧ s.arg 1 ≤ s.slotN 0 ∧ 1 ≤ s.arg 3 ∧ s.arg 3 ≤ s.slotN 0 ∧
         Meet (s.arg 5, 4 * s.slotN 0 + 2) (s.arg 2, s.arg 3) ∧ s.Fits (s.arg 5) (4 * s.slotN 0 + 2)) ∧
        (let s := onSlot (.reduce 0) [0x10, 2, 0x100, 0x40]
         1 ≤ s.arg 1 ∧ s.arg 1 ≤ 2 * s.slotN 0 ∧ s.MeetsRegion none (s.arg 2, s.slotN 0) ∧
           ¬Meet (s.arg 3, 2 * s.slotN 0 + 2) (s.arg 0, s.arg 1) ∧
             ¬Meet (s.arg 3, 2 * s.slotN 0 + 2) (s.arg 2, s.slotN 0) ∧ ¬s.Fits 4093 (2 * s.slotN 0 + 2)) := by
  simp only [State.MeetsRegion, meet_iff]
  exact ⟨by decide +kernel, by decide +kernel, by decide +kernel, by decide +kernel, ⟨0, by decide +kernel⟩,
    by decide +kernel, by decide +kernel, by decide +kernel⟩

/-- CompletionRaisesInterrupt: a command that ends with IE set, and a waiting one. -/
theorem witness_interrupt :
    after (exec .add { busy .w32 .add [0x10, 0x20, 1] operands with ie := true }) (fun t => t.pending.isNone &&
        t.irq) = true ∧
      after (exec (.rnd 0) (onSlot (.rnd 0) [0x40])) (fun t => t.pending.isSome && !t.irq) = true := by decide +kernel

/-! The conditions of the results: each met, at an end of what it allows. -/

theorem witness_CompareReady : (busy .w32 .eq [0x10, 0x10, 3] operands).CompareReady := by decide +kernel
theorem witness_CompareXReady : (busy .w32 .eqx [0x10, 1, 4093, 3] operands).CompareXReady := by decide +kernel
theorem witness_InPlaceReady_coincide : (busy .w32 .add [0x10, 0x10, 3] operands).InPlaceReady := by decide +kernel
theorem witness_InPlaceReady_apart : (busy .w64 .sub [0x10, 0x13, 3] operands).InPlaceReady := by decide +kernel
theorem witness_UnaryReady : (busy .w32 .not [4095, 1] operands).UnaryReady := by decide +kernel
theorem witness_UnaryReady_slot : (onSlot .zero [0xFF, 1]).UnaryReady := by decide +kernel
theorem witness_TestReady : (busy .w32 .ctz [0, 4096] operands).TestReady := by decide +kernel
theorem witness_InPlaceXReady_coincide : (busy .w32 .addx [0x10, 3, 0x10, 3] operands).InPlaceXReady := by
  decide +kernel
theorem witness_InPlaceXReady_apart : (busy .w32 .subx [0x10, 3, 0xF, 1] operands).InPlaceXReady := by decide +kernel
theorem witness_MulWordReady : (busy .w32 .setmul [0x10, 0x10, 3, 0x13] operands).MulWordReady := by decide +kernel
theorem witness_MulReady : (busy .w32 .mul [0x13, 0x10, 3, 0x10, 3] operands).MulReady := by decide +kernel
theorem witness_SqrReady : (busy .w32 .sqr [0x13, 0x10, 3] operands).SqrReady := by decide +kernel
theorem witness_ModwReady : (busy .w32 .modw [0x10, 3, 0x12] operands).ModwReady := by decide +kernel
theorem witness_DivmodReady :
    (busy .w32 .divmod [0x10, 3, 0x20, 1, 0x30, 0x33, 0x34] operands).DivmodReady := by decide +kernel
theorem witness_GcdReady : (busy .w32 .gcd [0x11, 0x10, 0x12, 1, 0x20] operands).GcdReady := by decide +kernel
theorem witness_CopyReady : (busy .w32 .copy [0x13, 0x10, 3] operands).CopyReady := by decide +kernel
theorem witness_SetmodReady : (busy .w32 (.setmod 0) [0x12, 1, 0x12, 0x15] operands).SetmodReady 0 := by decide +kernel
/-- SETMOD on its own valid slot's region: vector X10. -/
theorem witness_SetmodReady_own : (onSlot (.setmod 0) [0x100, 1, 0x100, 0x200]).SetmodReady 0 := by decide +kernel
theorem witness_ReduceReady :
    (onSlot (.reduce 0) [0x10, 2, 0x11, 0x30]).OneInputReady 0 2 0x11 0x30 4 := by decide +kernel
theorem witness_SqrmodReady : (onSlot (.sqrmod 0) [0x10, 1, 0x10, 0x30]).OneInputReady 0 1 0x10 0x30 6 := by
  decide +kernel
theorem witness_InvmodReady_invertible :
    (onSlot (.invmod 0) [0x12, 1, 0x40, 0x50]).OneInputReady 0 1 0x40 0x50 12 ∧
      (onSlot (.invmod 0) [0x12, 1, 0x40, 0x50]).modulus 0 % 2 = 1 ∧
        Nat.gcd ((onSlot (.invmod 0) [0x12, 1, 0x40, 0x50]).val 0x12 1 % 3233) 3233 = 1 := by decide +kernel
theorem witness_InvmodReady_not :
    (onSlot (.invmod 0) [0x11, 1, 0x40, 0x50]).OneInputReady 0 1 0x40 0x50 12 ∧
      Nat.gcd ((onSlot (.invmod 0) [0x11, 1, 0x40, 0x50]).val 0x11 1 % 3233) 3233 ≠ 1 := by decide +kernel
theorem witness_ModPairReady : (onSlot (.mulmod 0) [0x10, 1, 0x10, 1, 0x10, 0x30]).ModPairReady 0 := by decide +kernel
theorem witness_SlideReady : (onSlot (.slide 0) [0x10, 1, 0x30, 0x38]).SlideReady 0 := by decide +kernel
theorem witness_PowmodReady : (onSlot (.powmod 0) [0x10, 1, 0x10, 3, 0x11, 0x30]).PowmodReady 0 := by decide +kernel
theorem witness_PowsldReady : (onSlot (.powsld 0) [0x40, 0x10, 3, 0x41, 0x50]).PowsldReady 0 := by decide +kernel
/-- PowsldResult, its inner premise: E1's table holds the odd powers of 65. -/
theorem witness_odd_power_table :
    ∀ i < 8, (withSlot 0x100 1 (busy .w32 (.powsld 0) [0x60, 0x10, 1, 0x70, 0x80]
      ((0x60, 0x41) :: (0x61, 0xBED) :: (0x62, 0x9B8) :: (0x63, 0x525) :: (0x64, 0x14C) :: (0x65, 0xAFB) :: (0x66,
          0x682) ::
        (0x67, 0x261) :: slotWords))).val (0x60 + i * 1) 1 = 65 ^ (2 * i + 1) % 3233 := by decide +kernel
theorem witness_Pow2Ready : (onSlot (.pow2 0) [0x10, 3, 0x10, 0x30]).Pow2Ready 0 := by decide +kernel
theorem witness_RndReady : (onSlot (.rnd 0) [0x40]).RndReady 0 4 ∧ (onSlot (.rndodd 0) [0x40]).RndReady 0 5 := by
    decide +kernel
theorem witness_RndinvReady : (onSlot (.rndinv 0) [0x40, 0x41, 0x42]).RndinvReady 0 := by decide +kernel

/-- WindowTables and WindowDecodeComputesPower. -/
theorem witness_window : (3 % 2 = 1 ∧ 3 * 2 ^ 2 ≤ 15) ∧ (1 < 7 ∧ ∀ i < 8, oddPower 7 3 i = 3 ^ (2 * i + 1) % 7) := by
  decide +kernel

/-- CandidateIsMaskedDraws and the attempts: draws ready, accepted, rejected, and too few. -/
theorem witness_attempts :
    (onSlot (.rnd 0) [0x40]).SlotReady 0 ∧ (onSlot (.rnd 0) [0x40]).slotN 0 ≤ (withDraws [2] (onSlot (.rnd 0)
        [0x40])).rng.length ∧
      (2 ≤ (withDraws [2] (onSlot (.rnd 0) [0x40])).nextCandidate 0 ∧
        (withDraws [2] (onSlot (.rnd 0) [0x40])).nextCandidate 0 + 2 ≤ 3233) ∧
        ¬(withDraws [3232] (onSlot (.rnd 0) [0x40])).nextCandidate 0 + 2 ≤ 3233 ∧
          (onSlot (.rnd 0) [0x40]).rng.length < (onSlot (.rnd 0) [0x40]).slotN 0 := by decide +kernel

theorem witness_attempts_rndinv :
    Nat.gcd ((withDraws [2] (onSlot (.rndinv 0) [])).nextCandidate 0) 3233 = 1 ∧
      Nat.gcd ((withDraws [61] (onSlot (.rndinv 0) [])).nextCandidate 0) 3233 ≠ 1 := by decide +kernel

/-- The frames: commands that answer, one with an error. -/
theorem witness_frames :
    after (exec .add (busy .w32 .add [0x10, 0x20, 1] operands)) (fun _ => true) = true ∧
      after (exec .eq (busy .w32 .eq [0x10, 0x20, 1] operands)) (fun _ => true) = true ∧
        (formOf .zero (onSlot .zero [0xFF, 2])).firstError (onSlot .zero [0xFF, 2]) ≠ .noError ∧
          after (exec .zero (onSlot .zero [0xFF, 2])) (fun _ => true) = true := by decide +kernel

/-- The invariants: a sound state with a valid slot, whose step answers. -/
theorem witness_sound_step :
    (onSlot .add [0x10, 0x20, 1]).MemorySound ∧ (onSlot .add [0x10, 0x20, 1]).SlotsSound ∧
      after (step (onSlot .add [0x10, 0x20, 1])) (fun t => t.word 0x10 == 0x80000001) = true := by
  unfold State.MemorySound State.SlotsSound; decide +kernel

theorem witness_status_sound : (onSlot .add [0x10, 0x20, 1]).StatusSound :=
  ⟨fun _ h => by cases h; decide +kernel, fun h => absurd h (by decide +kernel)⟩

/-- The placed command is the next one run: CTXCLR on the machine right after reset. -/
theorem test_withFetchWord_runs :
    after (step (State.reset.withFetchWord 32 0x00000081)) (fun t => t.readReg 0x0C == 0x00000002 && t.readReg 0x10
        == 0x81) =
      true := by decide +kernel

end Sys2Proof.Tests
end

section
/-! # 00_scope.md R12: the value of a buffer as a sum over its words -/

namespace Sys2Proof.Machine

/-- Settles O17, by induction on the length: one more word multiplies the weight of every earlier word by `B`. -/
theorem valIsMostSignificantFirst : Obligations.ValIsMostSignificantFirst := by
  intro s a n
  induction n with
  | zero => simp [State.val]
  | succ n ih =>
    have weight_succ : ∀ i ∈ Finset.range n, s.word (a + i) * s.radix ^ (n - 1 - i) * s.radix =
        s.word (a + i) * s.radix ^ (n + 1 - 1 - i) := fun i hi => by
      have hin := Finset.mem_range.mp hi
      rw [mul_assoc, ← pow_succ, show n - 1 - i + 1 = n + 1 - 1 - i by omega]
    rw [State.val, ih, Finset.sum_mul, Finset.sum_congr rfl weight_succ, Finset.sum_range_succ]
    simp

end Sys2Proof.Machine
end

section
/-! # 10_state.md R42 to R44, R48: what host writes to CTRL, STATUS, CMD and the other offsets do -/

namespace Sys2Proof.Machine

/-- A 32-bit write at a multiple of 4 takes effect (20_memory.md R71). -/
theorem State.hostAccess_regWrite (s : State) (off : Nat) (v : Reg) (h : off % 4 = 0) :
    s.hostAccess (.regWrite off 32 v) = .next (s.writeReg off v) := by
  simp [State.hostAccess, regAccessOk, h]

theorem State.writeCtrl_enable (s : State) (v : Reg) (h : v.getLsbD 1 = false) :
    s.writeCtrl v = { s with ie := v.getLsbD 0 } :=
  if_neg (Bool.eq_false_iff.1 h)

theorem State.writeCmd_idle (s : State) (c : Reg) (h : s.pending = none) : s.writeCmd c = s.accept c :=
  if_neg (s.not_busy_iff.2 h)

theorem State.writeCmd_busy (s : State) (c : Reg) (h : s.pending ≠ none) : s.writeCmd c = { s with ovr := true } :=
  if_pos (s.busy_iff.2 h)

/-- The offsets that are not CTRL, STATUS, CMD or an ARG register take no write (10_state.md R31, R48). -/
theorem State.writeReg_ignored (s : State) (off : Nat) (v : Reg)
    (h : off < 0x08 ∨ (0x14 ≤ off ∧ off < 0x20) ∨ 0x40 ≤ off) : s.writeReg off v = s := by
  unfold State.writeReg
  split
  case h_12 => rfl
  all_goals omega

/-- The offsets from 0x60 upward are reserved (10_state.md R48). -/
theorem State.readReg_reserved (s : State) (off : Nat) (h : 0x60 ≤ off) : s.readReg off = 0#32 := by
  unfold State.readReg
  split
  case h_25 => rfl
  all_goals omega

/-- Settles O8, by what a write to each of the two registers does. -/
theorem ctrlAndStatusWrites : Obligations.CtrlAndStatusWrites := by
  intro s v
  refine ⟨fun hv => ?_, s.writeStatus v, s.hostAccess_regWrite 0x0C v rfl, rfl, ?_, ?_, ?_⟩
  · rw [s.hostAccess_regWrite 0x08 v rfl, ← s.writeCtrl_enable v hv]; rfl
  all_goals simp

/-- Settles O11, by the last arm of the register map, for writes and for reads. -/
theorem otherWritesAreIgnored : Obligations.OtherWritesAreIgnored := by
  intro s off v hoff
  refine ⟨fun h => ?_, s.readReg_reserved off⟩
  rw [s.hostAccess_regWrite off v hoff, s.writeReg_ignored off v h]

/-- Settles O6, by what a write to CMD does when idle and when busy. -/
theorem cmdWriteAcceptsOrOverruns : Obligations.CmdWriteAcceptsOrOverruns := by
  intro s c
  have hwrite : s.hostAccess (.regWrite 0x10 32 c) = .next (s.writeCmd c) := s.hostAccess_regWrite 0x10 c rfl
  refine ⟨fun h => ?_, fun h => ?_, rfl, rfl⟩
  · rw [hwrite, s.writeCmd_idle c h]; rfl
  · rw [hwrite, s.writeCmd_busy c h]

end Sys2Proof.Machine
end

section
/-! # 10_state.md R52: every step keeps each valid slot holding its modulus and coefficient

A step other than a successful SETMOD leaves every slot that is still valid after it, and every word of its region, as
they were (`State.KeepsSlot`). A successful SETMOD sets one slot, writes its modulus and coefficient, and keeps the
others in the same sense. -/

namespace Sys2Proof.Machine

/-- If slot `k` is valid in `t`, it is the slot of `s`, and the words of its region read as in `s`. -/
def State.KeepsSlot (t s : State) (k : Fin 4) : Prop :=
  (t.slot k).valid = true →
    t.slot k = s.slot k ∧ ∀ x, s.slotBase k ≤ x → x < s.slotBase k + (2 * s.slotN k + 1) → t.word x = s.word x

/-- A kept slot stays sound. -/
theorem State.KeepsSlot.slotSound {s t : State} {k : Fin 4} (h : t.KeepsSlot s k) (hp : t.params = s.params)
    (hs : s.SlotSound k) : t.SlotSound k := by
  intro hv
  obtain ⟨hslot, hword⟩ := h hv
  have hr : t.radix = s.radix := by simp only [State.radix, State.wordBits, hp]
  have hn : t.slotN k = s.slotN k := by simp only [State.slotN, hslot]
  have hb : t.slotBase k = s.slotBase k := by simp only [State.slotBase, hslot]
  have hm : t.modulus k = s.modulus k := by
    rw [State.modulus, hb, hn]
    exact State.val_congr hr _ _ fun i hi => hword _ (by omega) (by omega)
  have hc : t.coefficient k = s.coefficient k := by
    rw [State.coefficient, hb, hn]
    exact State.val_congr hr _ _ fun i hi => hword _ (by omega) (by omega)
  rw [State.Fits, hp, hr, hn, hb, hm, hc]
  exact hs (hslot ▸ hv)

/-- When every slot is kept, all stay sound and apart. -/
theorem State.SlotsSound.of_keepsSlot {s t : State} (hs : s.SlotsSound) (hp : t.params = s.params)
    (h : ∀ k, t.KeepsSlot s k) : t.SlotsSound := by
  obtain ⟨hsound, hapart⟩ := hs
  refine ⟨fun k => (h k).slotSound hp (hsound k), fun j k hjk hvj hvk => ?_⟩
  obtain ⟨hj, -⟩ := h j hvj
  obtain ⟨hk, -⟩ := h k hvk
  simp only [State.slotBase, State.slotN, hj, hk] at hvj hvk ⊢
  exact hapart j k hjk hvj hvk

/-- A state with the slots and the words of a sound one is sound. -/
theorem State.SlotsSound.congr {s t : State} (hs : s.SlotsSound) (hp : t.params = s.params) (hc : t.ctx = s.ctx)
    (hw : ∀ x, t.word x = s.word x) : t.SlotsSound :=
  hs.of_keepsSlot hp fun _ _ => ⟨by simp only [State.slot, hc], fun x _ _ => hw x⟩

/-- With every slot empty there is nothing to keep. -/
theorem State.slotsSound_of_ctx_empty {t : State} (h : t.ctx = .empty) : t.SlotsSound := by
  have hinvalid : ∀ k, (t.slot k).valid ≠ true := fun k => by simp [State.slot, h, Slot.empty]
  exact ⟨fun k hv => absurd hv (hinvalid k), fun j _ _ hv => absurd hv (hinvalid j)⟩

/-! ## The host's accesses -/

theorem Slot.covers_eq_false_iff (c : Slot) (a : Nat) :
    c.covers a = false ↔ a < c.base.toNat ∨ c.base.toNat + (2 * c.n.toNat + 1) ≤ a := by
  simp only [Slot.covers, Bool.and_eq_false_iff, decide_eq_false_iff_not, not_le, not_lt]

/-- A slot that is still valid after a host write to `a` is unchanged, and its region does not hold `a`. -/
theorem Slot.touched_valid {c : Slot} {a : Nat} (h : (c.touched a).valid = true) :
    c.touched a = c ∧ c.covers a = false := by
  simp only [Slot.touched, Bool.and_eq_true, Bool.not_eq_true'] at h
  obtain ⟨hv, hc⟩ := h
  exact ⟨by simp [Slot.touched, hc], hc⟩

/-- A host write invalidates the slots whose region it reaches, and keeps the others (20_memory.md R82). -/
theorem State.lmPerform_keepsSlot (s : State) (x : LmAccess) (k : Fin 4) : (s.lmPerform x).KeepsSlot s k := by
  intro hv
  cases x with
  | read a => exact ⟨rfl, fun _ _ _ => rfl⟩
  | write a v =>
    by_cases ha : a < s.params.lmWords
    · have hctx : (s.lmPerform (.write a v)).slot k = (s.slot k).touched a := by
        simp only [State.lmPerform, State.lmWrite, if_pos ha, State.slot, CtxFile.get_touched]
      rw [hctx] at hv ⊢
      obtain ⟨hsame, hcov⟩ := Slot.touched_valid hv
      refine ⟨hsame, fun x hl hr => ?_⟩
      have hxa : x ≠ a := by
        rintro rfl
        rw [Slot.covers_eq_false_iff] at hcov
        simp only [State.slotBase, State.slotN] at hl hr
        omega
      simp [State.word_lmPerform, State.wordAfter, lastWrite, hxa]
    · have hsame : s.lmPerform (.write a v) = s := if_neg ha
      rw [hsame]
      exact ⟨rfl, fun _ _ _ => rfl⟩

theorem State.SlotsSound.lmPerform {s : State} (hs : s.SlotsSound) (x : LmAccess) : (s.lmPerform x).SlotsSound :=
  hs.of_keepsSlot (by rw [s.lmPerform_rest x]) (s.lmPerform_keepsSlot x)

/-- A host access keeps the slots sound: only LM accesses and the soft reset reach them. -/
theorem State.SlotsSound.hostCase {s t : State} (hs : s.SlotsSound) (h : HostCase s t) : t.SlotsSound := by
  cases h with
  | softReset => exact State.slotsSound_of_ctx_empty rfl
  | lm x => exact hs.lmPerform x
  | read | enable | status | accept | overrun | arg | ignored | hold =>
    exact hs.congr rfl rfl fun _ => rfl

/-! ## The commands -/

/-- SETMOD alone may write the region of a slot, its own (20_memory.md R81). -/
theorem formOf_own (i : Instr) (s : State) (hi : ∀ k, i ≠ .setmod k) : (formOf i s).own = none := by
  cases i with
  | setmod k => exact absurd rfl (hi k)
  | _ => rfl

/-- A command whose checks pass writes no word of the region of a valid slot that is not its own. -/
theorem Form.ProtectionPasses.not_writes {f : Form} {s : State} (h : f.ProtectionPasses s) {k : Fin 4}
    (hk : f.own ≠ some k) (hv : (s.slot k).valid = true) {x : Nat} (hl : s.slotBase k ≤ x)
    (hr : x < s.slotBase k + (2 * s.slotN k + 1)) : ¬f.Writes x := by
  rintro ⟨b, hb, hw, hbl, hbr⟩
  exact h b hb hw k hk hv ⟨x, hbl, hbr, hl, hr⟩

/-- What a command other than SETMOD builds after its checks keeps every slot. -/
theorem Touches.keepsSlot {s u : State} {f : Form} (h : Touches s f u) (hown : f.own = none)
    (hprot : f.ProtectionPasses s) (k : Fin 4) : u.KeepsSlot s k := by
  have hslot : u.slot k = s.slot k := by rw [h.rest]; rfl
  intro hv
  refine ⟨hslot, fun x hl hr => h.word_outside x ?_⟩
  exact hprot.not_writes (by simp [hown]) (hslot ▸ hv) hl hr

/-- CTXCLR empties slot `k` and keeps the others (46_barrett.md R255). -/
theorem State.setSlot_empty_keepsSlot (s : State) (k j : Fin 4) : (s.setSlot k .empty).KeepsSlot s j := by
  intro hv
  by_cases hj : j = k
  · subst hj
    simp [Slot.empty] at hv
  · exact ⟨s.setSlot_slot_other j k _ hj, fun _ _ _ => rfl⟩

/-! ## SETMOD -/

/-- Buffers of at least one word that share none are apart. -/
theorem apart_of_disjoint {a n b m : Nat} (hn : 1 ≤ n) (hm : 1 ≤ m)
    (h : ¬∃ x, a ≤ x ∧ x < a + n ∧ b ≤ x ∧ x < b + m) : Apart a n b m := by
  rwa [apart_iff a n b m hn hm, ← Bool.not_eq_true, regionsMeet_iff]

theorem modulusOk_iff (B n m : Nat) : modulusOk B n m = true ↔ B ^ (n - 1) < m ∧ m < B ^ n := by
  simp [modulusOk]

/-- A buffer that shares no word with the region of a valid slot other than `k` is clear of them. -/
theorem State.clearBut_of_disjoint {s : State} {k : Fin 4} {a n : Nat} (hn : 1 ≤ n)
    (h : ∀ j, some k ≠ some j → (s.slot j).valid = true →
      ¬∃ x, a ≤ x ∧ x < a + n ∧ s.slotBase j ≤ x ∧ x < s.slotBase j + (2 * s.slotN j + 1)) : s.ClearBut k a n :=
  fun j hj hv => apart_of_disjoint hn (by omega) (h j (by simpa using hj.symm) hv)

theorem formSetmod_bufs (s : State) (k : Fin 4) : (formSetmod s k).bufs =
    [⟨.M, .input, s.arg 0, s.arg 1⟩, ⟨.BASE, .output, s.arg 2, 2 * s.arg 1 + 1⟩,
      ⟨.WK, .work, s.arg 3, 5 * s.arg 1 + 4⟩] := rfl

/-- SETMOD permits one overlap: M and the region may start at the same address (46_barrett.md R250). -/
theorem formSetmod_permitted (s : State) (k : Fin 4) (b c : Buf) : (formSetmod s k).permitted b c = true ↔
    (.M = b.name ∧ .BASE = c.name ∨ .M = c.name ∧ .BASE = b.name) ∧ b.addr = c.addr := by
  simp [Form.permitted, formSetmod, Permit.admits]

/-- The checks of SETMOD are no weaker than the conditions of its rule (46_barrett.md R250, R253). -/
theorem setmodReady_of_passes {s : State} {k : Fin 4} (h : (formSetmod s k).firstError s = .noError) :
    s.SetmodReady k := by
  obtain ⟨⟨-, hlen, hrange, hover, hprot⟩, hvalue⟩ := (Form.firstError_noError _ _).1 h
  have hn : 1 ≤ s.arg 1 := (hlen (lenAny (s.arg 1)) List.mem_cons_self).1
  simp only [Form.RangePasses, formSetmod_bufs, List.forall_mem_cons] at hrange
  obtain ⟨hfitM, hfitBase, hfitWk, -⟩ := hrange
  simp only [Form.OverlapPasses, formSetmod_bufs, List.pairwise_cons, List.forall_mem_cons, formSetmod_permitted,
    reduceCtorEq, and_true, true_and, and_false, false_and, or_false, false_or] at hover
  obtain ⟨⟨hMBase, hMWk, -⟩, ⟨hBaseWk, -⟩, -⟩ := hover
  simp only [Form.ProtectionPasses, formSetmod_bufs, List.forall_mem_cons] at hprot
  obtain ⟨-, hprotBase, hprotWk, -⟩ := hprot
  have hmod := (modulusOk_iff s.radix (s.arg 1) (s.val (s.arg 0) (s.arg 1))).1 (by simpa [formSetmod] using hvalue)
  exact ⟨hn, hfitM, hfitBase, hfitWk, hMBase.symm.imp_right (apart_of_disjoint hn (by omega)),
    (apart_of_disjoint hn (by omega) hMWk).symm, (apart_of_disjoint (by omega) (by omega) hBaseWk).symm,
    State.clearBut_of_disjoint (by omega) (hprotBase (by decide)),
    State.clearBut_of_disjoint (by omega) (hprotWk (by decide)), hmod⟩

/-- The coefficient of a modulus above `B^(n-1)` fits the `n + 1` words behind it (10_state.md R51). -/
theorem coefficient_lt {B n m : Nat} (hB : 0 < B) (hn : 1 ≤ n) (h : B ^ (n - 1) < m) :
    B ^ (2 * n) / m < B ^ (n + 1) := by
  rw [Nat.div_lt_iff_lt_mul (by omega)]
  calc B ^ (2 * n) = B ^ (n + 1) * B ^ (n - 1) := by rw [← pow_add]; congr 1; omega
    _ < B ^ (n + 1) * m := Nat.mul_lt_mul_of_pos_left h (Nat.pow_pos hB)

/-- The two stores of SETMOD: the modulus, and the coefficient behind it (46_barrett.md R250). -/
def State.setmodStored (s : State) : State :=
  (s.store (s.arg 2) (s.arg 1) (s.val (s.arg 0) (s.arg 1))).store (s.arg 2 + s.arg 1) (s.arg 1 + 1)
    (s.radix ^ (2 * s.arg 1) / s.val (s.arg 0) (s.arg 1))

theorem State.setmodBuilt_slot_same (s : State) (k : Fin 4) : (s.setmodBuilt k).slot k =
    { base := s.latchedArgs.get 2, n := s.latchedArgs.get 1, valid := true } := by
  rw [State.slot, s.setmodBuilt_ctx k, CtxFile.get_set_same]

theorem State.setmodBuilt_slot_other (s : State) {k j : Fin 4} (hj : j ≠ k) : (s.setmodBuilt k).slot j = s.slot j := by
  rw [State.slot, s.setmodBuilt_ctx k, CtxFile.get_set_other _ _ _ _ hj, State.slot]

theorem State.setmodBuilt_slotBase (s : State) (k : Fin 4) : (s.setmodBuilt k).slotBase k = s.arg 2 := by
  rw [State.slotBase, s.setmodBuilt_slot_same k]; rfl

theorem State.setmodBuilt_slotN (s : State) (k : Fin 4) : (s.setmodBuilt k).slotN k = s.arg 1 := by
  rw [State.slotN, s.setmodBuilt_slot_same k]; rfl

/-- A buffer apart from SETMOD's workspace holds what the two stores leave in it. -/
theorem State.setmodBuilt_val (s : State) (k : Fin 4) (a n : Nat) (h : Apart (s.arg 3) (5 * s.arg 1 + 4) a n) :
    (s.setmodBuilt k).val a n = s.setmodStored.val a n := by
  rw [← State.val_havoc_apart s.setmodStored _ _ _ _ h]
  refine State.val_congr ?_ a n fun _ _ => ?_
  · simp [State.setmodBuilt, State.setmodStored]
  · rw [State.setmodBuilt, State.setRes_word, State.setSlot_word, State.setmodStored]

/-- SETMOD leaves the modulus at BASE (46_barrett.md R250). -/
theorem State.setmodBuilt_modulus {s : State} {k : Fin 4} (h : s.SetmodReady k) :
    (s.setmodBuilt k).modulus k = s.val (s.arg 0) (s.arg 1) := by
  obtain ⟨-, -, -, -, -, -, hwk, -, -, -, -⟩ := h
  have hapart : Apart (s.arg 3) (5 * s.arg 1 + 4) (s.arg 2) (s.arg 1) := by omega
  rw [State.modulus, s.setmodBuilt_slotBase, s.setmodBuilt_slotN, s.setmodBuilt_val k _ _ hapart, State.setmodStored,
    State.val_store_apart _ _ _ _ _ _ (by omega), State.val_store, Nat.mod_eq_of_lt (s.val_lt _ _)]

/-- SETMOD leaves the coefficient behind the modulus (46_barrett.md R252). -/
theorem State.setmodBuilt_coefficient {s : State} {k : Fin 4} (h : s.SetmodReady k) :
    (s.setmodBuilt k).coefficient k = s.radix ^ (2 * s.arg 1) / s.val (s.arg 0) (s.arg 1) := by
  obtain ⟨hn, -, -, -, -, -, hwk, -, -, hlo, -⟩ := h
  have hapart : Apart (s.arg 3) (5 * s.arg 1 + 4) (s.arg 2 + s.arg 1) (s.arg 1 + 1) := by omega
  rw [State.coefficient, s.setmodBuilt_slotBase, s.setmodBuilt_slotN, s.setmodBuilt_val k _ _ hapart,
    State.setmodStored, State.val_store, State.store_radix, Nat.mod_eq_of_lt (coefficient_lt s.radix_pos hn hlo)]

/-- SETMOD leaves its slot sound (10_state.md R52). -/
theorem State.setmodBuilt_slotSound {s : State} {k : Fin 4} (h : s.SetmodReady k) : (s.setmodBuilt k).SlotSound k := by
  intro _
  have hp : (s.setmodBuilt k).params = s.params := by rw [s.setmodBuilt_rest k]
  have hr : (s.setmodBuilt k).radix = s.radix := by simp only [State.radix, State.wordBits, hp]
  rw [State.setmodBuilt_modulus h, State.setmodBuilt_coefficient h, s.setmodBuilt_slotBase, s.setmodBuilt_slotN, hr,
    State.Fits, hp]
  obtain ⟨-, -, hfit, -, -, -, -, -, -, hlo, hhi⟩ := h
  exact ⟨hfit, hlo, hhi, rfl⟩

/-- SETMOD keeps the other slots (46_barrett.md R254). -/
theorem State.setmodBuilt_keepsSlot {s : State} {k j : Fin 4} (h : s.SetmodReady k) (hj : j ≠ k) :
    (s.setmodBuilt k).KeepsSlot s j := by
  obtain ⟨-, -, -, -, -, -, -, hbase, hwk, -, -⟩ := h
  have hslot := s.setmodBuilt_slot_other hj
  intro hv
  have hb := hbase j hj (hslot ▸ hv)
  have hw := hwk j hj (hslot ▸ hv)
  exact ⟨hslot, fun x hl hr => s.setmodBuilt_word k x (by omega) (by omega)⟩

/-- SETMOD keeps the slots sound: its region is apart from those of the other valid slots (46_barrett.md R254). -/
theorem State.SlotsSound.setmodBuilt {s : State} {k : Fin 4} (hs : s.SlotsSound) (h : s.SetmodReady k) :
    (s.setmodBuilt k).SlotsSound := by
  obtain ⟨hsound, hapart⟩ := hs
  have hp : (s.setmodBuilt k).params = s.params := by rw [s.setmodBuilt_rest k]
  have hother (j) (hj : j ≠ k) := s.setmodBuilt_slot_other hj
  have hnew : ∀ j, j ≠ k → ((s.setmodBuilt k).slot j).valid = true →
      Apart ((s.setmodBuilt k).slotBase k) (2 * (s.setmodBuilt k).slotN k + 1)
        ((s.setmodBuilt k).slotBase j) (2 * (s.setmodBuilt k).slotN j + 1) := fun j hj hv => by
    obtain ⟨-, -, -, -, -, -, -, hbase, -, -, -⟩ := h
    rw [s.setmodBuilt_slotBase, s.setmodBuilt_slotN]
    simp only [State.slotBase, State.slotN, hother j hj] at hv ⊢
    exact hbase j hj hv
  constructor
  · intro j
    by_cases hj : j = k
    · subst hj; exact State.setmodBuilt_slotSound h
    · exact (State.setmodBuilt_keepsSlot h hj).slotSound hp (hsound j)
  · intro i j hij hvi hvj
    by_cases hi : i = k
    · subst hi; exact hnew j hij.symm hvj
    · by_cases hj : j = k
      · subst hj; exact (hnew i hi hvi).symm
      · simp only [State.slotBase, State.slotN, hother i hi, hother j hj] at hvi hvj ⊢
        exact hapart i j hij hvi hvj

/-- Every command keeps the slots sound. -/
theorem State.SlotsSound.exec_next {s t : State} {i : Instr} (hs : s.SlotsSound) (h : exec i s = .next t) :
    t.SlotsSound := by
  refine exec_elim h ?set ?error ?clear ?wait ?reject ?done
  case set => exact fun k _ hf => (hs.setmodBuilt (setmodReady_of_passes hf)).congr rfl rfl fun _ => rfl
  case error => exact fun _ => hs.congr rfl rfl fun _ => rfl
  case clear =>
    intro k _
    have hcleared : (s.setSlot k .empty).SlotsSound := hs.of_keepsSlot rfl (s.setSlot_empty_keepsSlot k)
    exact hcleared.congr rfl rfl fun _ => rfl
  case wait => exact fun _ _ _ => hs
  case reject => exact fun _ _ _ => hs.congr rfl rfl fun _ => rfl
  case done =>
    intro u hi hf hu
    obtain ⟨⟨-, -, -, -, hprot⟩, -⟩ := (Form.firstError_noError _ _).1 hf
    have hown := formOf_own i s fun k => (hi k).1
    exact (hs.of_keepsSlot (by rw [hu.rest]) (hu.keepsSlot hown hprot)).congr rfl rfl fun _ => rfl

/-- Settles O60, over what a step can do: a held LM access, a host access, a random word, a power-on reset, or the
unit's move. -/
theorem stepKeepsSlotsSound : Obligations.StepKeepsSlotsSound := by
  intro s t hs h
  have hturns (ts : List Turn) : State.SlotsSound { s with turns := ts } := hs.congr rfl rfl fun _ => rfl
  rcases step_cases h with ⟨x, xs, -, -, rfl⟩ | ⟨x, ts, -, hx⟩ | ⟨w, ts, -, rfl⟩ | ⟨ts, -, rfl⟩ | ⟨ts, -, hunit⟩
  · have hheld : State.SlotsSound { s with held := xs } := hs.congr rfl rfl fun _ => rfl
    exact hheld.lmPerform x
  · exact (hturns ts).hostCase (State.hostAccess_cases hx)
  · exact hs.congr rfl rfl fun _ => rfl
  · exact State.slotsSound_of_ctx_empty rfl
  · rcases hunit with ⟨-, rfl⟩ | ⟨_, _, -, -, rfl⟩ | ⟨_, _, -, -, hexec⟩
    · exact hturns ts
    · exact hs.congr rfl rfl fun _ => rfl
    · exact (hturns ts).exec_next hexec

end Sys2Proof.Machine
end

section
/-! # 20_memory.md R71: the register accesses the port does not take -/

namespace Sys2Proof.Machine

theorem regAccessOk_iff (off bits : Nat) : regAccessOk off bits = true ↔ bits = 32 ∧ off % 4 = 0 := by
  simp [regAccessOk]

/-- Settles O12: the port's check fails on another width or alignment, and both kinds of access then take their
refusing branch. -/
theorem badRegisterAccessIsRefused : Obligations.BadRegisterAccessIsRefused := by
  intro s off bits v hbad
  have hcheck : ¬regAccessOk off bits = true := fun hok => by
    obtain ⟨hwidth, halign⟩ := (regAccessOk_iff off bits).1 hok
    exact hbad.elim (· hwidth) (· halign)
  exact ⟨if_neg hcheck, if_neg hcheck⟩

end Sys2Proof.Machine
end

section
/-! # 30_encoding.md R100 to R106: the fields of a word, the decoder's answer, and the one word of a command -/

namespace Sys2Proof

/-! ## The fields of a word -/

theorem CmdFields.toWord_toNat (f : CmdFields) :
    f.toWord.toNat = f.reserved.toNat * 2 ^ 10 + f.ctx.toNat * 2 ^ 8 + f.opc.toNat := by
  have hopc : f.opc.toNat < 2 ^ 8 := f.opc.isLt
  have hctx : f.ctx.toNat < 2 ^ 2 := f.ctx.isLt
  rw [CmdFields.toWord, BitVec.toNat_append, BitVec.toNat_append, ← Nat.shiftLeft_add_eq_or_of_lt hctx,
    ← Nat.shiftLeft_add_eq_or_of_lt hopc]
  simp only [Nat.shiftLeft_eq]
  omega

theorem CmdFields.ofWord_opc_toNat (c : Reg) : (CmdFields.ofWord c).opc.toNat = c.toNat % 2 ^ 8 := by
  simp [CmdFields.ofWord]

theorem CmdFields.ofWord_ctx_toNat (c : Reg) : (CmdFields.ofWord c).ctx.toNat = c.toNat / 2 ^ 8 % 4 := by
  simp [CmdFields.ofWord, Nat.shiftRight_eq_div_pow]

theorem CmdFields.ofWord_reserved_toNat (c : Reg) : (CmdFields.ofWord c).reserved.toNat = c.toNat / 2 ^ 10 := by
  have hc : c.toNat < 2 ^ 32 := c.isLt
  simp only [CmdFields.ofWord, BitVec.extractLsb'_toNat, Nat.shiftRight_eq_div_pow]
  omega

/-- The three fields cover the word (30_encoding.md R100). -/
@[simp] theorem CmdFields.toWord_ofWord (c : Reg) : (CmdFields.ofWord c).toWord = c := by
  apply BitVec.eq_of_toNat_eq
  rw [CmdFields.toWord_toNat, CmdFields.ofWord_opc_toNat, CmdFields.ofWord_ctx_toNat,
    CmdFields.ofWord_reserved_toNat]
  omega

theorem CmdFields.listed_iff {f : CmdFields} {o : ℕ} (hopc : f.opc.toNat = o) : f.listed = true ↔
    (1 ≤ o ∧ o ≤ 6) ∨ (9 ≤ o ∧ o ≤ 0x0E) ∨ (0x20 ≤ o ∧ o ≤ 0x2D) ∨ (0x40 ≤ o ∧ o ≤ 0x4A) ∨ (0x60 ≤ o ∧ o ≤ 0x62) ∨
      (0x70 ≤ o ∧ o ≤ 0x71) ∨ (0x80 ≤ o ∧ o ≤ 0x87) ∨ (0x90 ≤ o ∧ o ≤ 0x93) ∨ (0xA0 ≤ o ∧ o ≤ 0xA2) := by
  simp only [CmdFields.listed, hopc, Bool.or_eq_true, Bool.and_eq_true, decide_eq_true_eq, or_assoc]

theorem CmdFields.slotCommand_iff (f : CmdFields) : f.slotCommand = true ↔ 0x80 ≤ f.opc.toNat := by
  simp [CmdFields.slotCommand]

theorem CmdFields.reservedOk_iff (f : CmdFields) : f.reservedOk = true ↔ f.reserved = 0 := by
  simp [CmdFields.reservedOk]

theorem CmdFields.ctxOk_iff (f : CmdFields) : f.ctxOk = true ↔ f.slotCommand = true ∨ f.ctx = 0 := by
  simp [CmdFields.ctxOk]

theorem CmdFields.wellFormed_iff (f : CmdFields) :
    f.wellFormed = true ↔ f.listed = true ∧ f.reservedOk = true ∧ f.ctxOk = true := by
  simp [CmdFields.wellFormed, and_assoc]

theorem Instr.fields_eq {i : Instr} {f : CmdFields} (hopc : i.opc = f.opc) (hctx : i.ctxField = f.ctx)
    (hreserved : f.reserved = 0) : i.fields = f := by
  rw [Instr.fields, hopc, hctx, ← hreserved]

/-! ## The decoder's answer -/

/-- What the opcode map may select for the fields `f`: nothing outside the ranges of 30_encoding.md R102, and
within them commands of that OPC, slot commands from 0x80 on (R107). -/
def Selected.Suits (f : CmdFields) : Selected → Prop
  | .unlisted => ¬f.listed = true
  | .plain i => f.listed = true ∧ ¬f.slotCommand = true ∧ i.opc = f.opc ∧ i.ctxField = 0
  | .slotted g => f.listed = true ∧ f.slotCommand = true ∧ ∀ k, (g k).opc = f.opc ∧ (g k).ctxField = BitVec.ofFin k

/-- The opcode map of 30_encoding.md R105 agrees with the ranges of R102, entry by entry. -/
theorem selectOpc_suits (f : CmdFields) : (selectOpc f.opc).Suits f := by
  unfold selectOpc
  split
  -- The catch-all entry: an OPC in one of the ranges is one of the map's entries.
  case h_58 =>
    rw [Selected.Suits, CmdFields.listed_iff rfl]
    simp only [imp_false] at *
    omega
  all_goals
    rename_i hopc
    simp [Selected.Suits, CmdFields.listed, CmdFields.slotCommand, Instr.opc, Instr.ctxField, ← BitVec.toNat_inj, hopc]

/-- What the decoder answers for a word with the fields `f` (30_encoding.md R101). -/
inductive DecodeCase (f : CmdFields) : Except DecodeError Instr → Prop
  | unlisted (hlisted : ¬f.listed = true) : DecodeCase f (.error .illegalOpcode)
  | reserved (hlisted : f.listed = true) (hbad : ¬(f.reservedOk = true ∧ f.ctxOk = true)) :
      DecodeCase f (.error .reservedField)
  | command (i : Instr) (hwf : f.wellFormed = true) (hi : i.fields = f) : DecodeCase f (.ok i)

theorem decode_cases (c : Reg) : DecodeCase (CmdFields.ofWord c) (decode c) := by
  have hsuits := selectOpc_suits (CmdFields.ofWord c)
  cases hsel : selectOpc (CmdFields.ofWord c).opc with
  | unlisted =>
    rw [hsel] at hsuits
    simp only [decode, hsel]
    exact .unlisted hsuits
  | plain i =>
    rw [hsel] at hsuits
    obtain ⟨hlisted, hplain, hopc, hctx⟩ := hsuits
    simp only [decode, hsel]
    split
    case isTrue hzero =>
      obtain ⟨hreserved, hnoSlot⟩ := hzero
      exact .command i ((CmdFields.wellFormed_iff _).2 ⟨hlisted, (CmdFields.reservedOk_iff _).2 hreserved,
        (CmdFields.ctxOk_iff _).2 (.inr hnoSlot)⟩) (Instr.fields_eq hopc (hctx.trans hnoSlot.symm) hreserved)
    case isFalse hnonzero =>
      refine .reserved hlisted fun ⟨hreserved, hctxOk⟩ => hnonzero ⟨(CmdFields.reservedOk_iff _).1 hreserved, ?_⟩
      exact ((CmdFields.ctxOk_iff _).1 hctxOk).resolve_left hplain
  | slotted g =>
    rw [hsel] at hsuits
    obtain ⟨hlisted, hslot, hfields⟩ := hsuits
    simp only [decode, hsel]
    split
    case isTrue hreserved =>
      obtain ⟨hopc, hctx⟩ := hfields (CmdFields.ofWord c).ctx.toFin
      exact .command _ ((CmdFields.wellFormed_iff _).2 ⟨hlisted, (CmdFields.reservedOk_iff _).2 hreserved,
        (CmdFields.ctxOk_iff _).2 (.inl hslot)⟩) (Instr.fields_eq hopc hctx hreserved)
    case isFalse hnonzero =>
      exact .reserved hlisted fun ⟨hreserved, _⟩ => hnonzero ((CmdFields.reservedOk_iff _).1 hreserved)

/-- A word the decoder gives a command for holds that command's fields, so it is that command's word. -/
theorem eq_encode_of_decode {c : Reg} {i : Instr} (h : decode c = .ok i) : c = encode i := by
  have hcase := decode_cases c
  rw [h] at hcase
  cases hcase with
  | command _ _ hi => rw [encode, hi, CmdFields.toWord_ofWord]

/-! ## The one word of a command -/

/-- The laws of the single commands, as one over every command. -/
theorem Laws.Encoding.statement (i : Instr) : Laws.Encoding.Statement i :=
  i.casesOn (motive := Statement)
    eq ne gt lt ge le eqx nex gtx ltx gex lex and or xor not tstmsb tstlsb setmsb setlsb clrmsb clrlsb clz ctz lshift
    rshift add sub addx subx setmul addmul mul sqr dbl halve neg modw divmod gcd zero copy setmod
    ctxclr reduce addmod submod mulmod sqrmod invmod slide powmod powsld pow2 rnd rndodd rndinv

@[simp] theorem decode_encode (i : Instr) : decode (encode i) = .ok i := by
  obtain ⟨-, -, h⟩ := Laws.Encoding.statement i
  cases hd : decode (encode i) with
  | error e => simp [hd, Except.toOption] at h
  | ok j => simpa [hd, Except.toOption] using h

theorem encode_toNat (i : Instr) : (encode i).toNat = i.ctxField.toNat * 2 ^ 8 + i.opc.toNat := by
  rw [encode, CmdFields.toWord_toNat]
  simp [Instr.fields]

/-- A command of OPC below 0x80 has no slot (30_encoding.md R107): its fields are well formed. -/
theorem Instr.ctxField_of_opc_lt (i : Instr) (h : i.opc.toNat < 0x80) : i.ctxField = 0 := by
  obtain ⟨-, hwf, -⟩ := Laws.Encoding.statement i
  obtain ⟨-, -, hctx⟩ := i.fields.wellFormed_iff.1 hwf
  rcases i.fields.ctxOk_iff.1 hctx with hslot | hzero
  · exact absurd (i.fields.slotCommand_iff.1 hslot) (not_le.2 h)
  · exact hzero

/-- Settles O2: what decodes to a command is its word, by the fields the decoder checks, and its word decodes to it, by
the law of each command. -/
theorem decodeExactlyEncode : Obligations.DecodeExactlyEncode := by
  refine ⟨fun c i => ⟨eq_encode_of_decode, ?_⟩, encode_toNat, Instr.ctxField_of_opc_lt, by decide, by decide, by decide⟩
  rintro rfl
  exact decode_encode i

/-- Settles O3, over the decoder's three answers: the rule's ranges, reserved bits and CTX bits of the word are the
checks on its fields. -/
theorem decodeChecksInOrder : Obligations.DecodeChecksInOrder := by
  intro c o listed reservedBad
  have hopc : (CmdFields.ofWord c).opc.toNat = o := CmdFields.ofWord_opc_toNat c
  have hlistedIff : (CmdFields.ofWord c).listed = true ↔ listed := CmdFields.listed_iff hopc
  have hokIff : ((CmdFields.ofWord c).reservedOk = true ∧ (CmdFields.ofWord c).ctxOk = true) ↔ ¬reservedBad := by
    rw [CmdFields.reservedOk_iff, CmdFields.ctxOk_iff, CmdFields.slotCommand_iff, ← BitVec.toNat_inj,
      ← BitVec.toNat_inj, hopc, CmdFields.ofWord_reserved_toNat, CmdFields.ofWord_ctx_toNat]
    simp only [reservedBad, BitVec.ofNat_eq_ofNat, BitVec.toNat_ofNat]
    omega
  have hcase := decode_cases c
  generalize decode c = answer at hcase
  cases hcase with
  | unlisted hunlisted =>
    have hnot : ¬listed := mt hlistedIff.2 hunlisted
    exact ⟨fun _ => rfl, fun h => absurd h hnot, fun h => absurd h hnot⟩
  | reserved hlisted hbad =>
    have hreservedBad : reservedBad := by_contra fun h => hbad (hokIff.2 h)
    exact ⟨absurd (hlistedIff.1 hlisted), fun _ _ => rfl, fun _ hgood => absurd hreservedBad hgood⟩
  | command i hwf hi =>
    obtain ⟨hlisted, hok⟩ := (CmdFields.wellFormed_iff _).1 hwf
    refine ⟨absurd (hlistedIff.1 hlisted), fun _ hbad => absurd hbad (hokIff.1 hok), fun _ _ => ⟨i, rfl, ?_, ?_⟩⟩
    · rw [← hopc, ← hi, Instr.fields]
    · rw [← CmdFields.ofWord_ctx_toNat, ← hi, Instr.fields]

end Sys2Proof
end

section
/-! # 47_powmod.md R293: the window decode over odd powers computes the power

Every accumulator of the decode is the residue of a power of the base, so each operation of R292 is a step on exponents:
a squaring doubles the exponent, and closing a window of `L` bits appends those bits to it. -/

namespace Sys2Proof.Machine

theorem shiftRight_bitlen (p : Nat) : p >>> bitlen p = 0 := by
  rw [bitlen]
  split
  case isTrue hzero => simp [hzero]
  case isFalse => exact Nat.shiftRight_eq_zero p _ Nat.lt_log2_self

/-- One more bit of `p`, most significant first: what is read of `p` doubles and takes the bit. -/
theorem shiftRight_eq_double_add_asBit (p k : Nat) : p >>> k = 2 * (p >>> (k + 1)) + asBit (p.testBit k) := by
  rw [Nat.shiftRight_succ, Nat.testBit_eq_decide_div_mod_eq, ← Nat.shiftRight_eq_div_pow, asBit]
  simp only [decide_eq_true_eq]
  split <;> omega

theorem size_double_add_asBit (v : Nat) (b : Bool) (h : 2 * v + asBit b ≠ 0) :
    (2 * v + asBit b).size = v.size + 1 := by
  have hbit : 2 * v + asBit b = Nat.bit b v := by cases b <;> rfl
  rw [hbit] at h ⊢
  exact Nat.size_bit h

/-! ## Squarings and windows as steps on exponents -/

theorem square_power_mod (m x h : Nat) : x ^ h % m * (x ^ h % m) % m = x ^ (2 * h) % m := by
  rw [← Nat.mul_mod, ← pow_add, two_mul]

theorem squareTimes_power_mod (m x k h : Nat) : squareTimes m k (x ^ h % m) = x ^ (2 ^ k * h) % m := by
  induction k generalizing h with
  | zero => simp [squareTimes]
  | succ k ih => rw [squareTimes, square_power_mod, ih, ← mul_assoc, ← pow_succ]

/-- The three tables (47_powmod.md R290) split a window value into an odd power of the table and a shift, and count as
many squarings as the value has bits. -/
theorem windowTables_split : ∀ v < 16, v ≠ 0 →
    mulG v < 8 ∧ 2 ^ postSq v * (2 * mulG v + 1) = v ∧ preSq v + postSq v = v.size := by decide

/-- Closing a window appends its bits to the exponent read so far (47_powmod.md R293). -/
theorem applyWindow_power_mod {m x : Nat} {tab : Nat → Nat} (htab : ∀ i < 8, tab i = x ^ (2 * i + 1) % m) {v : Nat}
    (hv : v < 16) (hne : v ≠ 0) (h : Nat) :
    applyWindow m tab v (x ^ h % m) = x ^ (2 ^ v.size * h + v) % m := by
  obtain ⟨hentry, hvalue, hcount⟩ := windowTables_split v hv hne
  have hexponent : 2 ^ postSq v * (2 ^ preSq v * h + (2 * mulG v + 1)) = 2 ^ v.size * h + v := by
    rw [mul_add, hvalue, ← hcount, pow_add]
    ring
  rw [applyWindow, htab _ hentry, squareTimes_power_mod, ← Nat.mul_mod, ← pow_add, squareTimes_power_mod, hexponent]

/-! ## The decode, bit by bit -/

/-- After the bits of `e`, the accumulator holds the power of the closed windows, and the open window the `len < 4`
bits read since, from a 1 bit on. -/
def Window.Reads (w : Window) (m x e : Nat) : Prop :=
  ∃ h, w.acc = x ^ h % m ∧ e = 2 ^ w.len * h + w.win ∧ w.win.size = w.len ∧ w.len < 4

theorem windowBit_reads {m x : Nat} {tab : Nat → Nat} (htab : ∀ i < 8, tab i = x ^ (2 * i + 1) % m) {w : Window}
    {e : Nat} (hw : w.Reads m x e) (b : Bool) : (windowBit m tab w b).Reads m x (2 * e + asBit b) := by
  obtain ⟨h, hacc, rfl, hsize, hlen⟩ := hw
  have happend : 2 * (2 ^ w.len * h + w.win) + asBit b = 2 ^ (w.len + 1) * h + (2 * w.win + asBit b) := by ring
  rw [happend]
  by_cases hopen : 2 * w.win + asBit b ≠ 0
  · have hsize' : (2 * w.win + asBit b).size = w.len + 1 := by rw [size_double_add_asBit _ _ hopen, hsize]
    by_cases hfull : w.len + 1 = 4
    · have hlt : 2 * w.win + asBit b < 16 := Nat.size_le (n := 4) |>.1 (hsize'.trans hfull).le
      simp only [windowBit, if_pos hopen, if_pos hfull]
      refine ⟨2 ^ (w.len + 1) * h + (2 * w.win + asBit b), ?_, by simp, rfl, Nat.succ_pos 3⟩
      rw [hacc, applyWindow_power_mod htab hlt hopen, hsize']
    · simp only [windowBit, if_pos hopen, if_neg hfull]
      exact ⟨h, hacc, rfl, hsize', Nat.lt_of_le_of_ne hlen hfull⟩
  · have hwin : w.win = 0 := by omega
    have hlen0 : w.len = 0 := by rw [← hsize, hwin, Nat.size_zero]
    simp only [windowBit, if_neg hopen]
    refine ⟨2 * h, by rw [hacc, square_power_mod], by ring, ?_, hlen⟩
    rw [not_not.1 hopen, Nat.size_zero, hlen0]

theorem foldl_windowBit_reads {m x : Nat} {tab : Nat → Nat} (htab : ∀ i < 8, tab i = x ^ (2 * i + 1) % m)
    (p k : Nat) {w : Window} (hw : w.Reads m x (p >>> k)) : ((bitsBelow p k).foldl (windowBit m tab) w).Reads m x p := by
  induction k generalizing w with
  | zero => exact hw
  | succ k ih =>
    refine ih ?_
    rw [shiftRight_eq_double_add_asBit]
    exact windowBit_reads htab hw _

/-- Closing the window still open at the end leaves the power by the whole exponent. -/
theorem Window.Reads.close {m x : Nat} {tab : Nat → Nat} (htab : ∀ i < 8, tab i = x ^ (2 * i + 1) % m) {w : Window}
    {e : Nat} (hw : w.Reads m x e) :
    (if w.win ≠ 0 then applyWindow m tab w.win w.acc else w.acc) = x ^ e % m := by
  obtain ⟨h, hacc, rfl, hsize, hlen⟩ := hw
  by_cases hopen : w.win ≠ 0
  · have hlt : w.win < 16 := Nat.size_le (n := 4) |>.1 (hsize.trans_lt hlen).le
    rw [if_pos hopen, hacc, applyWindow_power_mod htab hlt hopen, hsize]
  · have hwin : w.win = 0 := not_not.1 hopen
    have hlen0 : w.len = 0 := by rw [← hsize, hwin, Nat.size_zero]
    rw [if_neg hopen, hacc, hwin, hlen0, pow_zero, one_mul, add_zero]

/-- Settles O48: the decode starts having read no bit, each bit it takes is one more bit of `p` read, and the window
left open is closed at the end. -/
theorem windowDecodeComputesPower : Obligations.WindowDecodeComputesPower := by
  intro m x p tab hm htab
  have hstart : (Window.mk 1 0 0).Reads m x (p >>> bitlen p) :=
    ⟨0, by rw [pow_zero, Nat.mod_eq_of_lt hm], shiftRight_bitlen p, rfl, by decide⟩
  exact (foldl_windowBit_reads htab p (bitlen p) hstart).close htab

end Sys2Proof.Machine
end

section
/-! # Invariants of the step: W and LM_WORDS, the canonical memory, STATUS and the latched command

What every step keeps is shown of the ways a step can go (`step_preserves`): the agents' queues move, a host access
takes effect, power comes on, a word that is no command ends, or a command executes. -/

namespace Sys2Proof.Machine

/-- What each way a step can go keeps, every step keeps. -/
theorem step_preserves {I : State → Prop}
    (agents : ∀ s held rng turns, I s → I { s with held := held, rng := rng, turns := turns })
    (host : ∀ s t, I s → HostCase s t → I t) (powerOn : ∀ s, I s → I s.powerOn)
    (bad : ∀ s p e, I s → s.pending = some p → I (s.complete (.ofDecode e)))
    (command : ∀ s t p i, I s → s.pending = some p → exec i s = .next t → I t) {s t : State} (hs : I s)
    (h : step s = .next t) : I t := by
  have hturns (ts : List Turn) : I { s with turns := ts } := agents s s.held s.rng ts hs
  rcases step_cases h with ⟨x, xs, hp, -, rfl⟩ | ⟨x, ts, -, hx⟩ | ⟨w, ts, -, rfl⟩ | ⟨ts, -, rfl⟩ | ⟨ts, -, hunit⟩
  · exact host _ _ (agents s xs s.rng s.turns hs) (.lm x hp)
  · exact host _ _ (hturns ts) (State.hostAccess_cases hx)
  · exact agents s s.held (s.rng ++ [w]) ts hs
  · exact powerOn _ (hturns ts)
  · rcases hunit with ⟨-, rfl⟩ | ⟨p, e, hp, -, rfl⟩ | ⟨p, i, hp, -, hexec⟩
    · exact hturns ts
    · exact bad _ p e (hturns ts) hp
    · exact command _ t p i (hturns ts) hp hexec

/-! ## The canonical memory -/

/-- Memory soundness reads the parameters, the memory and RES only. -/
theorem State.MemorySound.congr {s t : State} (hs : s.MemorySound) (hp : t.params = s.params) (hlm : t.lm = s.lm)
    (hres : t.res = s.res) : t.MemorySound := by
  have hr : t.radix = s.radix := by simp only [State.radix, State.wordBits, hp]
  rw [State.MemorySound, hr, hp, hlm, hres]
  exact hs

theorem State.MemorySound.setRes {s : State} (hs : s.MemorySound) (v : Nat) : (s.setRes v).MemorySound := by
  refine ⟨hs.1, ?_⟩
  rw [State.setRes_res, State.setRes_radix, ofNat_digit _ _ s.radix_le s.radix_pos]
  exact Nat.mod_lt _ s.radix_pos

theorem State.MemorySound.lmPerform {s : State} (hs : s.MemorySound) (x : LmAccess) :
    (s.lmPerform x).MemorySound := by
  cases x with
  | read a => exact hs
  | write a v =>
    by_cases ha : a < s.params.lmWords
    · have hdigit : (BitVec.ofNat 64 (v.toNat % s.radix)).toNat < s.radix := by
        rw [ofNat_digit _ _ s.radix_le s.radix_pos]
        exact Nat.mod_lt _ s.radix_pos
      simp only [State.lmPerform, State.lmWrite, if_pos ha]
      exact ⟨Memory.wf_write hs.1 ha hdigit, hs.2⟩
    · simpa only [State.lmPerform, State.lmWrite, if_neg ha] using hs

theorem State.MemorySound.lmPerformAll {s : State} (hs : s.MemorySound) (xs : List LmAccess) :
    (s.lmPerformAll xs).MemorySound := by
  induction xs generalizing s with
  | nil => exact hs
  | cons x xs ih => exact ih (hs.lmPerform x)

theorem State.MemorySound.havoc {s : State} (hs : s.MemorySound) {a n : Nat} (h : s.Fits a n) :
    (s.havoc a n).MemorySound :=
  ⟨Memory.wf_havoc _ _ _ hs.1 s.radix_le s.radix_pos h, hs.2⟩

theorem State.MemorySound.havocWritten {s : State} (hs : s.MemorySound) {bs : List Buf}
    (h : ∀ b ∈ bs, s.Fits b.addr b.len) : (s.havocWritten bs).MemorySound := by
  induction bs generalizing s with
  | nil => exact hs
  | cons b bs ih =>
    obtain ⟨hb, hbs⟩ := List.forall_mem_cons.1 h
    rw [State.havocWritten]
    split
    · exact ih (hs.havoc hb) hbs
    · exact ih hs hbs

/-- The partial results of an aborted command lie in buffers that fit (70_reset_and_hazards.md R382). -/
theorem State.MemorySound.abortHavoc {s : State} (hs : s.MemorySound) : s.abortHavoc.MemorySound := by
  rcases s.abortHavoc_cases with h | ⟨p, i, -, -, hf, h⟩ <;> rw [h]
  · exact hs
  · obtain ⟨⟨-, -, hrange, -, -⟩, -⟩ := (Form.firstError_noError _ _).1 hf
    exact hs.havocWritten hrange

theorem State.MemorySound.softReset {s : State} (hs : s.MemorySound) : s.softReset.MemorySound := by
  have hreleased := (hs.abortHavoc.congr (t := { s.abortHavoc with pending := none, held := [] }) rfl rfl
    rfl).lmPerformAll s.abortHavoc.held
  exact ⟨hreleased.1, State.radix_pos _⟩

theorem State.MemorySound.hostCase {s t : State} (hs : s.MemorySound) (h : HostCase s t) : t.MemorySound := by
  cases h with
  | softReset => exact hs.softReset
  | lm x => exact hs.lmPerform x
  | read | enable | status | accept | overrun | arg | ignored | hold => exact hs

theorem State.powerOn_memorySound (s : State) : s.powerOn.MemorySound :=
  ⟨rfl, State.radix_pos _⟩

/-- SETMOD writes its region and its workspace, which fit. -/
theorem State.MemorySound.setmodBuilt {s : State} (hs : s.MemorySound) {k : Fin 4}
    (h : (formSetmod s k).RangePasses s) : (s.setmodBuilt k).MemorySound := by
  have hbase : (⟨.BASE, .output, s.arg 2, 2 * s.arg 1 + 1⟩ : Buf) ∈ (formSetmod s k).bufs := by
    simp [formSetmod_bufs]
  have hwk : (⟨.WK, .work, s.arg 3, 5 * s.arg 1 + 4⟩ : Buf) ∈ (formSetmod s k).bufs := by
    simp [formSetmod_bufs]
  have hstored : Touches s (formSetmod s k) (s.setmodStored.havoc (s.arg 3) (5 * s.arg 1 + 4)) :=
    .havocBuf .WK .work _ _ (.store _ _ _ _ (.store _ _ _ _ .start hbase (by simp) (by simp) (by simp; omega))
      hbase (by simp) (by simp) (by simp; omega)) hwk (by decide)
  exact ((hstored.memorySound h hs).setRes 0).congr rfl rfl rfl

theorem State.MemorySound.exec_next {s t : State} {i : Instr} (hs : s.MemorySound) (h : exec i s = .next t) :
    t.MemorySound := by
  refine exec_elim h ?set ?error ?clear ?wait ?reject ?done
  case set =>
    intro k _ hf
    obtain ⟨⟨-, -, hrange, -, -⟩, -⟩ := (Form.firstError_noError _ _).1 hf
    exact hs.setmodBuilt hrange
  case error => exact fun _ => hs
  case clear => exact fun k _ => (hs.setRes 0).congr rfl rfl rfl
  case wait => exact fun _ _ _ => hs
  case reject => exact fun _ _ _ => hs
  case done =>
    intro u _ hf hu
    obtain ⟨⟨-, -, hrange, -, -⟩, -⟩ := (Form.firstError_noError _ _).1 hf
    exact hu.memorySound hrange hs

/-- Settles O58: of the ways a step can go, those that write a word write it inside the memory and below `B`. -/
theorem stepKeepsMemorySound : Obligations.StepKeepsMemorySound := fun _ _ hs h =>
  step_preserves (fun _ _ _ _ hs => hs) (fun _ _ hs h => hs.hostCase h) (fun s _ => s.powerOn_memorySound)
    (fun _ _ _ hs _ => hs) (fun _ _ _ _ hs _ h => hs.exec_next h) hs h

/-! ## STATUS and the latched command -/

/-- With nothing pending and ERR clear, STATUS has nothing to agree with. -/
theorem State.statusSound_of_idle {t : State} (hp : t.pending = none) (he : t.err = true → t.errCode ≠ .noError) :
    t.StatusSound :=
  ⟨fun p h => by simp [hp] at h, he⟩

/-- While a command is pending ERR is 0 (10_state.md R43). -/
theorem State.StatusSound.err_of_pending {s : State} (hs : s.StatusSound) {p : Pending} (hp : s.pending = some p) :
    s.err = false := by
  obtain ⟨-, herr, -⟩ := hs.1 p hp
  exact herr

/-- A pending command ends with ERR set exactly when its code is an error (60_exceptions.md R343). -/
theorem State.complete_statusSound {u : State} (e : ErrorCode) (h : u.err = false) : (u.complete e).StatusSound :=
  State.statusSound_of_idle rfl (by simp [h])

theorem State.softReset_statusSound (s : State) : s.softReset.StatusSound := by
  refine State.statusSound_of_idle ?_ (by simp [State.softReset])
  rw [State.softReset, State.clearRegisters_pending, State.releaseHeld, State.lmPerformAll_rest]

theorem State.StatusSound.hostCase {s t : State} (hs : s.StatusSound) (h : HostCase s t) : t.StatusSound := by
  cases h with
  | read | enable | overrun | ignored | hold => exact hs
  | softReset => exact s.softReset_statusSound
  | status v =>
    refine ⟨fun p hp => ?_, fun he => hs.2 ?_⟩
    · obtain ⟨hdone, herr, hrest⟩ := hs.1 p hp
      exact ⟨by simp [hdone], by simp [herr], hrest⟩
    · rw [State.writeStatus_err, Bool.and_eq_true] at he
      exact he.1
  | accept c =>
    refine ⟨fun p hp => ?_, fun he => by simp at he⟩
    obtain rfl : _ = p := Option.some.inj hp
    exact ⟨rfl, rfl, rfl, rfl, rfl⟩
  | arg i v hp => exact State.statusSound_of_idle hp hs.2
  | lm x => rw [s.lmPerform_rest x]; exact hs

/-- A rejected attempt keeps the latched command and counts the attempt (48_random.md R322). -/
theorem State.StatusSound.retry {s : State} (hs : s.StatusSound) : s.retry.StatusSound := by
  refine ⟨fun p hp => ?_, hs.2⟩
  obtain ⟨q, hq, rfl⟩ := Option.map_eq_some_iff.1 hp
  exact hs.1 q hq

theorem State.StatusSound.exec_next {s t : State} {i : Instr} {p : Pending} (hs : s.StatusSound)
    (hp : s.pending = some p) (h : exec i s = .next t) : t.StatusSound := by
  have herr := hs.err_of_pending hp
  refine exec_elim h ?set ?error ?clear ?wait ?reject ?done
  case set => exact fun k _ _ => State.complete_statusSound _ (by rw [s.setmodBuilt_rest k, herr])
  case error => exact fun _ => State.complete_statusSound _ herr
  case clear => exact fun k _ => State.complete_statusSound _ herr
  case wait => exact fun _ _ _ => hs
  case reject => exact fun k _ _ => State.StatusSound.retry (s := s.takeDraws k) hs
  case done => exact fun u _ _ hu => State.complete_statusSound _ (by rw [hu.rest, herr])

/-- Settles O59: acceptance latches what the registers hold, no later access reaches it, and a command ends with ERR
set only together with a code. -/
theorem stepKeepsStatusSound : Obligations.StepKeepsStatusSound := fun _ _ hs h =>
  step_preserves (fun _ _ _ _ hs => hs) (fun _ _ hs h => hs.hostCase h)
    (fun _ _ => State.statusSound_of_idle rfl (by simp))
    (fun _ _ _ hs hp => State.complete_statusSound _ (hs.err_of_pending hp))
    (fun _ _ _ _ hs hp h => hs.exec_next hp h) hs h

end Sys2Proof.Machine
end

section
/-! # Frames: what no command changes, and how every command answers -/

namespace Sys2Proof.Machine

/-- What holds of a command's effect completed, and of its state with any error, holds of what it answers. -/
theorem State.command_elim {s t eff : State} {f : Form} {P : State → Prop} (h : s.command f eff = .next t)
    (done : P (eff.complete .noError)) (error : ∀ e, P (s.complete e)) : P t := by
  rcases s.command_cases f eff with ⟨-, hc⟩ | ⟨-, hc⟩
  · exact Host.Outcome.next.inj (hc.symm.trans h) ▸ done
  · exact Host.Outcome.next.inj (hc.symm.trans h) ▸ error _

/-- A sampling command names the slot whose modulus it samples below (48_random.md). -/
theorem Samples.slot {i : Instr} {k : Fin 4} (h : Samples i k) (s : State) : (formOf i s).slot = some k := by
  rcases h with rfl | rfl | rfl <;> rfl

/-- Without a slot there is nothing to draw for. -/
theorem Touches.rng_of_no_slot {s u : State} {f : Form} (h : Touches s f u) (hf : f.slot = none) : u.rng = s.rng := by
  induction h with
  | start => rfl
  | store _ _ _ _ _ _ _ _ _ ih => exact ih
  | havoc _ _ _ _ _ _ _ _ ih => exact ih
  | draws k _ hk => simp [hf] at hk
  | res _ _ ih => exact ih

theorem exec_rng_of_no_slot {i : Instr} {s t : State} (hi : (formOf i s).slot = none) (h : exec i s = .next t) :
    t.rng = s.rng := by
  apply exec_elim h
  case set => intro k _ _; rw [s.setmodBuilt_rest k]; rfl
  case reject => intro k hk; simp [hk.slot s] at hi
  case done => exact fun u _ _ hu => hu.rng_of_no_slot hi
  all_goals intros; rfl

/-- Only the sampling commands take draws (20_memory.md R90). -/
theorem exec_rng {i : Instr} {s t : State} (hi : ∀ k, ¬Samples i k) (h : exec i s = .next t) : t.rng = s.rng := by
  have command {f : Form} {eff : State} (h : s.command f eff = .next t) (heff : eff.rng = s.rng) : t.rng = s.rng :=
    State.command_elim (P := fun u => u.rng = s.rng) h heff fun _ => rfl
  cases i with
  | rnd k => exact absurd (.inl rfl) (hi k)
  | rndodd k => exact absurd (.inr (.inl rfl)) (hi k)
  | rndinv k => exact absurd (.inr (.inr rfl)) (hi k)
  | reduce k | addmod k | submod k | mulmod k | sqrmod k | powmod k | powsld k | pow2 k => exact command h rfl
  | invmod k =>
    refine command h ?_
    split <;> rfl
  | slide k =>
    refine command h ?_
    rw [State.setRes_rng, State.havoc_rng, State.storeTable_eq]
  | _ => exact exec_rng_of_no_slot rfl h

theorem not_samples_iff (i : Instr) (k : Fin 4) : ¬Samples i k ↔ i ≠ .rnd k ∧ i ≠ .rndodd k ∧ i ≠ .rndinv k := by
  simp only [Samples, not_or, ne_eq]

/-- Settles O52: an effect reaches the memory, RES and the draws, SETMOD's and CTXCLR's a slot besides. -/
theorem execLeavesOtherRegisters : Obligations.ExecLeavesOtherRegisters := by
  intro i s t h
  have hrng : (∀ k, i ≠ .rnd k ∧ i ≠ .rndodd k ∧ i ≠ .rndinv k) → t.rng = s.rng :=
    fun hi => exec_rng (fun k => (not_samples_iff i k).2 (hi k)) h
  suffices hregs : t.params = s.params ∧ t.ie = s.ie ∧ t.ovr = s.ovr ∧ t.cmd = s.cmd ∧ t.args = s.args ∧
      t.held = s.held ∧ t.turns = s.turns ∧ t.replies = s.replies ∧ t.epoch = s.epoch ∧
        ∀ j, (i ≠ .setmod j ∧ i ≠ .ctxclr j) → t.slot j = s.slot j by
    obtain ⟨hparams, hie, hovr, hcmd, hargs, hheld, hturns, hreplies, hepoch, hslot⟩ := hregs
    exact ⟨hparams, hie, hovr, hcmd, hargs, hheld, hturns, hreplies, hepoch, hslot, hrng⟩
  apply exec_elim h
  case set =>
    rintro k rfl -
    have hslot : ∀ j, (Instr.setmod k ≠ .setmod j ∧ Instr.setmod k ≠ .ctxclr j) →
        (s.setmodBuilt k).slot j = s.slot j := by
      rintro j ⟨hj, -⟩
      exact s.setmodBuilt_slot_other fun e => hj (e ▸ rfl)
    rw [s.setmodBuilt_rest k] at hslot ⊢
    exact ⟨rfl, rfl, rfl, rfl, rfl, rfl, rfl, rfl, rfl, hslot⟩
  case clear =>
    rintro k rfl
    have hslot : ∀ j, (Instr.ctxclr k ≠ .setmod j ∧ Instr.ctxclr k ≠ .ctxclr j) →
        (s.setSlot k .empty).slot j = s.slot j := by
      rintro j ⟨-, hj⟩
      exact s.setSlot_slot_other j k _ fun e => hj (e ▸ rfl)
    exact ⟨rfl, rfl, rfl, rfl, rfl, rfl, rfl, rfl, rfl, hslot⟩
  case done =>
    intro u _ _ hu
    rw [hu.rest]
    exact ⟨rfl, rfl, rfl, rfl, rfl, rfl, rfl, rfl, rfl, fun _ _ => rfl⟩
  all_goals intros; exact ⟨rfl, rfl, rfl, rfl, rfl, rfl, rfl, rfl, rfl, fun _ _ => rfl⟩

/-- SETMOD writes its region and its workspace, the buffers its form names. -/
theorem State.setmodBuilt_word_of_not_writes (s : State) (k : Fin 4) {a : Nat} (h : ¬(formSetmod s k).Writes a) :
    (s.setmodBuilt k).word a = s.word a := by
  have hout {b : Buf} (hb : b ∈ (formSetmod s k).bufs) (hw : b.role ≠ .input) : a < b.addr ∨ b.addr + b.len ≤ a := by
    by_contra hin
    exact h ⟨b, hb, hw, by omega, by omega⟩
  exact s.setmodBuilt_word k a
    (hout (b := ⟨.BASE, .output, s.arg 2, 2 * s.arg 1 + 1⟩) (by simp [formSetmod_bufs]) (by simp))
    (hout (b := ⟨.WK, .work, s.arg 3, 5 * s.arg 1 + 4⟩) (by simp [formSetmod_bufs]) (by simp))

/-- CTXCLR makes no check beyond those of its word (46_barrett.md R255). -/
theorem formCtxclr_passes (s : State) : formCtxclr.firstError s = .noError := rfl

/-- Settles O53: an effect writes inside the written buffers, and an error is the whole effect of its command. -/
theorem execLeavesOtherWords : Obligations.ExecLeavesOtherWords := by
  intro i s t h
  apply exec_elim h
  case set => rintro k rfl hf; exact ⟨fun a ha => s.setmodBuilt_word_of_not_writes k ha, fun he => absurd hf he⟩
  case error => exact fun _ => ⟨fun _ _ => rfl, fun _ => ⟨rfl, rfl, rfl, rfl⟩⟩
  case clear => rintro k rfl; exact ⟨fun _ _ => rfl, fun he => absurd (formCtxclr_passes s) he⟩
  case wait => exact fun _ _ hf => ⟨fun _ _ => rfl, fun he => absurd hf he⟩
  case reject => exact fun _ _ hf => ⟨fun _ _ => rfl, fun he => absurd hf he⟩
  case done => exact fun u _ hf hu => ⟨fun a ha => hu.word_outside a ha, fun he => absurd hf he⟩

/-- A command all of whose buffers are `in` builds no other memory. -/
theorem Touches.lm_of_inputs {s u : State} {f : Form} (h : Touches s f u) (hf : ∀ b ∈ f.bufs, b.role = .input) :
    u.lm = s.lm := by
  induction h with
  | start => rfl
  | store b _ _ _ _ hb hw => exact absurd (hf b hb) hw
  | havoc b _ _ _ hb hw => exact absurd (hf b hb) hw
  | draws _ _ _ ih => exact ih
  | res _ _ ih => exact ih

/-- A command all of whose buffers are `in` leaves the memory as it is. -/
theorem exec_lm_of_inputs {i : Instr} {s t : State} (hi : ∀ b ∈ (formOf i s).bufs, b.role = .input)
    (h : exec i s = .next t) : t.lm = s.lm := by
  apply exec_elim h
  case set => rintro k rfl -; simp [formOf, formSetmod_bufs] at hi
  case done => exact fun u _ _ hu => hu.lm_of_inputs hi
  all_goals intros; rfl

/-- Settles O54: these commands name no buffer to write. -/
theorem reportingCommandsWriteNoWord : Obligations.ReportingCommandsWriteNoWord := by
  intro s t i hi h
  have hinputs : ∀ b ∈ (formOf i s).bufs, b.role = .input := by
    revert i
    simp [formOf, formCompare, formCompareX, formTest, formModw, formCtxclr, Form.plain]
  refine ⟨exec_lm_of_inputs hinputs h, fun a => (execLeavesOtherWords i s t h).1 a ?_⟩
  rintro ⟨b, hb, hw, -⟩
  exact hw (hinputs b hb)

/-- Every command answers: none faults or is refused (20_memory.md R84). -/
theorem exec_answers (i : Instr) (s : State) : ∃ t, exec i s = .next t := by
  rcases exec_kinds i with ⟨k, rfl⟩ | ⟨k, rfl⟩ | hi
  · rcases setmod_cases k s with ⟨-, h⟩ | ⟨-, h⟩ <;> exact ⟨_, h⟩
  · exact ⟨_, ctxclr_eq k s⟩
  · have h := exec_cases i s hi
    generalize exec i s = o at h
    cases h <;> exact ⟨_, rfl⟩

/-- Settles O55: only a wait or a rejected attempt, of a sampling command, does not complete. -/
theorem everyCommandAnswers : Obligations.EveryCommandAnswers := by
  intro i s
  obtain ⟨t, h⟩ := exec_answers i s
  refine ⟨t, h, ?_⟩
  apply exec_elim h
  case wait => exact fun k hk _ hi => absurd hk ((not_samples_iff i k).2 (hi k))
  case reject => exact fun k hk _ hi => absurd hk ((not_samples_iff i k).2 (hi k))
  all_goals intros; exact ⟨rfl, rfl⟩

/-- Settles O23: every way a command ends goes through its completion, and only a sampling command stays pending. -/
theorem completionRaisesInterrupt : Obligations.CompletionRaisesInterrupt := by
  refine ⟨fun i s t h hp => ?_, fun s c => ⟨fun hp => ?_, ?_, ?_, ?_⟩⟩
  · have ended {u : State} (hie : u.ie = s.ie) (e : ErrorCode) :
        ((u.complete e).pending = none → (u.complete e).done = true ∧ (u.complete e).irq = s.ie) ∧
          ((u.complete e).pending ≠ none → (u.complete e).irq = s.irq) :=
      ⟨fun _ => ⟨rfl, by simp [State.irq, hie]⟩, fun hne => absurd rfl hne⟩
    apply exec_elim h
    case set => exact fun k _ _ => ended (by rw [s.setmodBuilt_rest k]) _
    case error => exact fun _ => ended rfl _
    case clear => exact fun k _ => ended (u := (s.setSlot k .empty).setRes 0) rfl _
    case wait => exact fun _ _ _ => ⟨fun hn => absurd hn hp, fun _ => rfl⟩
    case reject => exact fun k _ _ => ⟨fun hn => absurd (by simpa using hn) hp, fun _ => rfl⟩
    case done => exact fun u _ _ hu => ended (by rw [hu.rest]) _
  · exact ⟨s.accept c, by rw [s.hostAccess_regWrite 0x10 c rfl, ← s.writeCmd_idle c hp]; rfl, rfl⟩
  · exact ⟨s.writeStatus 6, s.hostAccess_regWrite 0x0C 6 rfl, by simp [State.irq]⟩
  · refine ⟨{ s with ie := false }, ?_, by simp [State.irq], rfl⟩
    exact s.hostAccess_regWrite 0x08 0 rfl
  · refine ⟨{ s with ie := true }, ?_, by simp [State.irq]⟩
    exact s.hostAccess_regWrite 0x08 1 rfl

/-! ## Parameters and reset -/

theorem HostCase.params {s t : State} (h : HostCase s t) : t.params = s.params := by
  cases h with
  | softReset =>
    have habort : s.abortHavoc.params = s.params := by
      rcases s.abortHavoc_cases with h | ⟨p, i, -, -, -, h⟩ <;> rw [h]
      rw [State.havocWritten_rest]
    rw [State.softReset, State.clearRegisters_params, State.releaseHeld, State.lmPerformAll_rest]
    exact habort
  | lm x => rw [s.lmPerform_rest x]
  | read | enable | status | accept | overrun | arg | ignored | hold => rfl

/-- Settles O57: no way a step can go reaches the parameters. -/
theorem stepKeepsParameters : Obligations.StepKeepsParameters := by
  intro s t h
  refine step_preserves (I := fun u => u.params = s.params) ?agents ?host ?powerOn ?bad ?command rfl h
  case agents => exact fun _ _ _ _ hu => hu
  case host => exact fun _ _ hu hc => hc.params.trans hu
  case powerOn => exact fun _ hu => hu
  case bad => exact fun _ _ _ hu _ => hu
  case command => exact fun u v p i hu _ hv => (execLeavesOtherRegisters i u v hv).1.trans hu

/-- Settles O56: at reset the memory lists no word, nothing is pending and no slot is valid. -/
theorem resetIsSound : Obligations.ResetIsSound := by
  refine ⟨by unfold Params.Admitted; decide, ⟨State.reset_memory_wf, by decide⟩, ?_, ?_⟩
  · exact State.statusSound_of_idle rfl fun h => by cases h
  · exact State.slotsSound_of_ctx_empty rfl

end Sys2Proof.Machine
end

section
/-! # The register map: what host reads answer, and the ARG writes -/

namespace Sys2Proof.Machine

/-! ## Fields of a 32-bit register, from the number it holds -/

theorem Reg.getLsbD_ofNat {v i : Nat} {b : Bool} (hi : i < 32) (h : v / 2 ^ i % 2 = b.toNat) :
    (BitVec.ofNat 32 v).getLsbD i = b := by
  rw [BitVec.getLsbD_ofNat, Nat.testBit_eq_decide_div_mod_eq, h]
  cases b <;> simp [hi]

theorem Reg.extractLsb'_ofNat {v start len : Nat} {f : BitVec len} (hv : v < 2 ^ 32)
    (h : v / 2 ^ start % 2 ^ len = f.toNat) : (BitVec.ofNat 32 v).extractLsb' start len = f := by
  apply BitVec.eq_of_toNat_eq
  rw [BitVec.extractLsb'_toNat, BitVec.toNat_ofNat, Nat.mod_eq_of_lt hv, Nat.shiftRight_eq_div_pow, h]

theorem ErrorCode.code_toNat_le (e : ErrorCode) : e.code.toNat ≤ 12 := by cases e <;> decide

/-- ID is the constant of 10_state.md R40 with `W` in its low byte. -/
theorem State.idReg_fields (s : State) :
    (s.idReg.extractLsb' 0 8).toNat = s.params.width.bits ∧ s.idReg.extractLsb' 8 24 = 0x570104#24 := by
  unfold State.idReg State.wordBits
  cases s.params.width <;> decide

/-- LMSIZE holds every admitted memory size (10_state.md R41). -/
theorem State.lmSizeReg_toNat (s : State) (h : s.params.Admitted) : s.lmSizeReg.toNat = s.params.lmWords := by
  obtain ⟨-, hmax⟩ := h
  rw [State.lmSizeReg, BitVec.toNat_ofNat]
  omega

/-- CTRL is IE in bit 0 (10_state.md R42). -/
theorem State.ctrlReg_fields (s : State) : s.ctrlReg.getLsbD 0 = s.ie ∧ s.ctrlReg.extractLsb' 1 31 = 0#31 := by
  unfold State.ctrlReg
  cases s.ie <;> decide

/-- STATUS: its four flags, its code, and nothing between and above them (10_state.md R43). -/
theorem State.statusReg_fields (s : State) :
    s.statusReg.getLsbD 0 = s.pending.isSome ∧ s.statusReg.getLsbD 1 = s.done ∧ s.statusReg.getLsbD 2 = s.err ∧
      s.statusReg.getLsbD 3 = s.ovr ∧ s.statusReg.extractLsb' 4 4 = 0#4 ∧
        s.statusReg.extractLsb' 8 8 = s.errCode.code ∧ s.statusReg.extractLsb' 16 16 = 0#16 := by
  have hbusy := Bool.toNat_le s.busy
  have hdone := Bool.toNat_le s.done
  have herr := Bool.toNat_le s.err
  have hovr := Bool.toNat_le s.ovr
  have hcode := s.errCode.code_toNat_le
  unfold State.statusReg
  rw [← State.busy]
  refine ⟨Reg.getLsbD_ofNat (by decide) ?_, Reg.getLsbD_ofNat (by decide) ?_, Reg.getLsbD_ofNat (by decide) ?_,
    Reg.getLsbD_ofNat (by decide) ?_, Reg.extractLsb'_ofNat (by omega) ?_, Reg.extractLsb'_ofNat (by omega) ?_,
    Reg.extractLsb'_ofNat (by omega) ?_⟩
  case refine_5 | refine_7 => rw [BitVec.toNat_ofNat]; omega
  all_goals omega

/-- CTXVALID: one bit per slot, and nothing above them (10_state.md R46). -/
theorem State.ctxValidReg_fields (s : State) :
    (∀ k : Fin 4, s.ctxValidReg.getLsbD k.val = (s.slot k).valid) ∧ s.ctxValidReg.extractLsb' 4 28 = 0#28 := by
  have hle (k : Fin 4) := Bool.toNat_le (s.slot k).valid
  have h0 := hle 0
  have h1 := hle 1
  have h2 := hle 2
  have h3 := hle 3
  unfold State.ctxValidReg
  refine ⟨fun k => Reg.getLsbD_ofNat (by omega) ?_, Reg.extractLsb'_ofNat (by omega) ?_⟩
  · match k with
    | 0 | 1 | 2 | 3 => norm_num; omega
  · rw [BitVec.toNat_ofNat]; omega

/-- Settles O9, register by register. -/
theorem statusRegistersReadTheirFields : Obligations.StatusRegistersReadTheirFields := by
  intro s hadm
  obtain ⟨hbits, hconst⟩ := s.idReg_fields
  obtain ⟨hie, hctrl⟩ := s.ctrlReg_fields
  obtain ⟨hbusy, hdone, herr, hovr, hlow, hcode, hhigh⟩ := s.statusReg_fields
  exact ⟨hbits, hconst, s.lmSizeReg_toNat hadm, hie, hctrl, hbusy, hdone, herr, hovr, hlow, hcode, hhigh,
    s.ctxValidReg_fields⟩

/-! ## RES, the slots, and what a read leaves -/

theorem State.resVal_lt (s : State) : s.resVal < s.radix := Nat.mod_lt _ s.radix_pos

theorem State.radix_of_w32 {s : State} (h : s.params.width = .w32) : s.radix = 2 ^ 32 := by
  rw [State.radix, State.wordBits, h, Width.bits]

/-- A 32-bit read at a multiple of 4 answers the register and changes nothing else (20_memory.md R76). -/
theorem State.hostAccess_regRead (s : State) (off : Nat) (h : off % 4 = 0) :
    s.hostAccess (.regRead off 32) = .next { s with replies := s.replies ++ [.reg off (s.readReg off)] } :=
  if_pos ((regAccessOk_iff off 32).2 ⟨rfl, h⟩)

theorem State.readReg_slot (s : State) (k : Fin 4) :
    s.readReg (0x40 + 8 * k.val) = (s.slot k).base ∧ s.readReg (0x44 + 8 * k.val) = (s.slot k).n := by
  match k with
  | 0 | 1 | 2 | 3 => exact ⟨rfl, rfl⟩

theorem State.resLoReg_toNat (s : State) : s.resLoReg.toNat = s.resVal % 2 ^ 32 := by
  rw [State.resLoReg, BitVec.toNat_ofNat, Nat.mod_mod]

theorem State.resHiReg_toNat {s : State} (h : s.params.width = .w64) : s.resHiReg.toNat = s.resVal / 2 ^ 32 := by
  have hlt := s.resVal_lt.trans_le s.radix_le
  rw [State.resHiReg, h, BitVec.toNat_ofNat]
  exact Nat.mod_eq_of_lt (by omega)

/-- Settles O10: the two halves of RES, the fields of each slot, and the frame of a read. -/
theorem resultAndSlotRegistersRead : Obligations.ResultAndSlotRegistersRead := by
  intro s
  refine ⟨s.resLoReg_toNat, State.resHiReg_toNat, fun h => ⟨?_, ?_⟩, s.readReg_slot, s.hostAccess_regRead⟩
  · show s.resHiReg = 0#32
    rw [State.resHiReg, h]
    rfl
  · have hlt := State.radix_of_w32 h ▸ s.resVal_lt
    exact (s.resLoReg_toNat.trans (Nat.mod_eq_of_lt hlt)).symm

/-! ## ARG writes -/

theorem State.writeArg_idle {s : State} (h : s.pending = none) (i : Fin 8) (v : Reg) :
    s.writeArg i v = { s with args := s.args.set v i } :=
  if_neg (s.not_busy_iff.2 h)

theorem State.writeArg_busy {s : State} (h : s.pending ≠ none) (i : Fin 8) (v : Reg) :
    s.writeArg i v = { s with ovr := true } :=
  if_pos (s.busy_iff.2 h)

/-- ARG `i` is at offset `0x20 + 4i`, for reads and for writes (10_state.md R31). -/
theorem State.readReg_arg (s : State) (i : Fin 8) : s.readReg (0x20 + 4 * i.val) = s.args.get i := by
  match i with
  | 0 | 1 | 2 | 3 | 4 | 5 | 6 | 7 => rfl

theorem State.writeReg_arg (s : State) (i : Fin 8) (v : Reg) : s.writeReg (0x20 + 4 * i.val) v = s.writeArg i v := by
  match i with
  | 0 | 1 | 2 | 3 | 4 | 5 | 6 | 7 => rfl

/-- Settles O7, by what a write to ARG does when idle and when busy. -/
theorem argWriteStoresOrOverruns : Obligations.ArgWriteStoresOrOverruns := by
  intro s i v
  have hwrite : s.hostAccess (.regWrite (0x20 + 4 * i.val) 32 v) = .next (s.writeArg i v) := by
    rw [s.hostAccess_regWrite _ v (by omega), s.writeReg_arg]
  refine ⟨fun h => ⟨{ s with args := s.args.set v i }, ?_, rfl, ?_, fun j hj => ?_⟩, fun h => ?_⟩
  · rw [hwrite, State.writeArg_idle h]
  · rw [State.readReg_arg, ArgFile.get_set_same]
  · rw [State.readReg_arg, State.readReg_arg, ArgFile.get_set_other _ _ _ _ hj]
  · rw [hwrite, State.writeArg_busy h]

end Sys2Proof.Machine
end

section
/-! # 20_memory.md R70, R82, R83: the LM port -/

namespace Sys2Proof.Machine

theorem State.hostAccess_lm_idle {s : State} (h : s.pending = none) (x : LmAccess) :
    s.hostAccess (.lm x) = .next (s.lmPerform x) :=
  if_neg (s.not_busy_iff.2 h)

/-- Settles O14, by the busy branch of the port. -/
theorem lmAccessIsHeldWhileBusy : Obligations.LmAccessIsHeldWhileBusy := fun s _ h => if_pos (s.busy_iff.2 h)

/-- A read's answer fits the 64-bit container. -/
theorem State.lmRead_toNat (s : State) (a : Nat) : (BitVec.ofNat 64 (s.lmRead a)).toNat = s.lmRead a := by
  rw [BitVec.toNat_ofNat]
  refine Nat.mod_eq_of_lt ?_
  unfold State.lmRead
  split
  · exact (s.word_lt a).trans_le s.radix_le
  · decide

theorem State.lmPerform_write_inside {s : State} {a : Nat} (h : a < s.params.lmWords) (v : Word) :
    s.lmPerform (.write a v) =
      { s with lm := Memory.write s.lm a (BitVec.ofNat 64 (v.toNat % s.radix)), ctx := s.ctx.touched a } :=
  if_pos h

theorem State.lmPerform_write_outside {s : State} {a : Nat} (h : s.params.lmWords ≤ a) (v : Word) :
    s.lmPerform (.write a v) = s :=
  if_neg (Nat.not_lt.2 h)

/-- A host write to `a` clears VALID of the slots whose region holds `a`, and only VALID (20_memory.md R82). -/
theorem Slot.touched_valid_iff (c : Slot) (a : Nat) : (c.touched a).valid = true ↔
    c.valid = true ∧ (a < c.base.toNat ∨ c.base.toNat + 2 * c.n.toNat < a) := by
  rw [Slot.touched, Bool.and_eq_true, Bool.not_eq_true', Slot.covers_eq_false_iff]
  refine and_congr_right fun _ => ?_
  omega

/-- Settles O13, from what one LM access leaves in the words and the slots. -/
theorem lmPortReadsWritesAndInvalidates : Obligations.LmPortReadsWritesAndInvalidates := by
  intro s a v hp
  refine ⟨⟨BitVec.ofNat 64 (s.lmRead a), s.hostAccess_lm_idle hp _, fun ha => ?_, fun ha => ?_⟩, fun ha => ?_,
    fun ha => ?_⟩
  · rw [s.lmRead_toNat, State.lmRead, if_pos ha]
  · rw [State.lmRead, if_neg (Nat.not_lt.2 ha)]; rfl
  · have hword (x : Nat) : (s.lmPerform (.write a v)).word x = if x = a then v.toNat % s.radix else s.word x := by
      rw [s.word_lmPerform, State.wordAfter]
      by_cases hx : x = a
      · simp [hx, ha, lastWrite]
      · simp [hx, lastWrite]
    have hslot (k : Fin 4) : (s.lmPerform (.write a v)).slot k = (s.slot k).touched a := by
      rw [State.lmPerform_write_inside ha, State.slot, CtxFile.get_touched, State.slot]
    refine ⟨_, s.hostAccess_lm_idle hp _, by rw [State.lmPerform_write_inside ha], ?_, fun x hx => ?_, fun k => ?_⟩
    · rw [hword, if_pos rfl]
    · rw [hword, if_neg hx]
    · rw [hslot]
      exact ⟨rfl, rfl, (s.slot k).touched_valid_iff a⟩
  · rw [s.hostAccess_lm_idle hp, State.lmPerform_write_outside ha]

end Sys2Proof.Machine
end

section
/-! # 20_memory.md R83 to R85: the order of the agents, as the model holds it -/

namespace Sys2Proof.Machine

/-- A busy unit, or one with no access held, takes the next turn. -/
theorem State.nextEvent_turn {s : State} (h : s.pending ≠ none ∨ s.held = []) : s.nextEvent = s.nextTurn := by
  unfold State.nextEvent
  split
  · rfl
  · next hidle => rw [h.resolve_left (not_not.2 (s.not_busy_iff.1 hidle))]

theorem State.nextTurn_unit {s : State} {ts : List Turn} (h : s.turns = .unit :: ts ∨ (s.turns = [] ∧ ts = [])) :
    s.nextTurn = .unit { s with turns := ts } := by
  unfold State.nextTurn
  rcases h with h | ⟨h, rfl⟩
  · rw [h]
  · have hsame : s = { s with turns := [] } := by rw [← h]
    rw [h, ← hsame]

/-- The unit moves when its turn comes, and when no turn is left (log 7). -/
theorem step_unit {s : State} {ts : List Turn} (h : s.turns = .unit :: ts ∨ (s.turns = [] ∧ ts = []))
    (hready : s.pending ≠ none ∨ s.held = []) : step s = { s with turns := ts }.unitStep := by
  rw [step, State.nextEvent_turn hready, State.nextTurn_unit h]

/-- Settles O4, over what the unit finds pending. -/
theorem stepRunsDecodedCommand : Obligations.StepRunsDecodedCommand := by
  intro s ts h
  refine ⟨fun p i hp hi => ?_, fun p e hp he => ?_, fun hp hheld => ?_⟩
  · rw [step_unit h (.inl (by simp [hp])), State.unitStep, State.pendingInstr]
    simp only [hp, hi]
  · refine ⟨_, ?_, State.complete_failed _ (by cases e <;> decide)⟩
    rw [step_unit h (.inl (by simp [hp])), State.unitStep, State.pendingInstr]
    simp only [hp, he]
  · rw [step_unit h (.inr hheld), State.unitStep, State.pendingInstr]
    simp only [hp]

/-- Settles O5, agent by agent. -/
theorem stepTakesTurnsInOrder : Obligations.StepTakesTurnsInOrder := by
  intro s ts
  refine ⟨fun x xs hp hheld => ?_, fun hready => ⟨fun x ht => ?_, fun w ht => ?_, fun ht => ?_⟩⟩
  · rw [step, State.nextEvent, if_neg (s.not_busy_iff.2 hp)]
    simp only [hheld]
  all_goals
    rw [step, State.nextEvent_turn hready, State.nextTurn]
    simp only [ht]
  rfl

end Sys2Proof.Machine
end

section
/-! # 70_reset_and_hazards.md R380, R382: power-on and soft reset -/

namespace Sys2Proof.Machine

/-- After a reset every register but ID and LMSIZE reads 0. -/
theorem State.readReg_clearRegisters {s : State} (hp : s.pending = none) {off : Nat} (h : 0x08 ≤ off) :
    s.clearRegisters.readReg off = 0#32 := by
  have hbusy : s.clearRegisters.busy = false := by rw [State.clearRegisters_busy, State.busy, hp]; rfl
  have hslot (k : Fin 4) : s.clearRegisters.slot k = .empty := CtxFile.get_empty k
  have hres : s.clearRegisters.resVal = 0 := Nat.zero_mod _
  have hhi : s.clearRegisters.resHiReg = 0#32 := by
    rw [State.resHiReg, hres]
    cases s.clearRegisters.params.width <;> rfl
  unfold State.readReg
  split
  case h_1 | h_2 => omega
  case h_4 => simp [State.statusReg, hbusy, ErrorCode.code]
  case h_6 => rw [State.resLoReg, hres]; rfl
  case h_7 => exact hhi
  all_goals simp [State.ctrlReg, State.ctxValidReg, hslot, Slot.empty, ArgFile.get, ArgFile.zero]

theorem State.powerOn_readReg (s : State) {off : Nat} (h : 0x08 ≤ off) : s.powerOn.readReg off = 0#32 :=
  State.readReg_clearRegisters (s := s.powerOn) rfl h

/-- Settles O16: power-on writes the reset value to every register. -/
theorem powerOnResetClears : Obligations.PowerOnResetClears :=
  ⟨fun s => ⟨rfl, rfl, rfl, rfl, rfl, fun _ h => s.powerOn_readReg h⟩, rfl, rfl, rfl, rfl, fun _ h =>
    State.readReg_clearRegisters (s := State.reset) rfl h⟩

/-- The state on which a soft reset releases the held accesses: the command dropped, none held any more. -/
def State.aborted (s : State) : State := { s.abortHavoc with pending := none, held := [] }

theorem State.abortHavoc_rest (s : State) :
    s.abortHavoc = { s with lm := s.abortHavoc.lm, free := s.abortHavoc.free } := by
  rcases s.abortHavoc_cases with h | ⟨p, i, -, -, -, h⟩ <;> rw [h]
  exact s.havocWritten_rest _

theorem State.aborted_rest (s : State) :
    s.aborted = { s with pending := none, held := [], lm := s.aborted.lm, free := s.aborted.free } := by
  rw [State.aborted, s.abortHavoc_rest]

/-- An aborted command that passes its checks may leave anything in its written buffers, and nothing elsewhere. -/
theorem State.aborted_word {s : State} {a : Nat} (h : s.AbortKeeps a) : s.aborted.word a = s.word a := by
  show s.abortHavoc.word a = s.word a
  rcases s.abortHavoc_cases with hc | ⟨p, i, hp, hi, hf, hc⟩ <;> rw [hc]
  obtain ⟨hcommon, hvalue⟩ := (Form.firstError_noError _ _).1 hf
  refine s.havocWritten_word _ a fun b hb hw => ?_
  by_contra hin
  exact h p i hp hi hcommon hvalue ⟨b, hb, hw, by omega, by omega⟩

theorem State.softReset_eq (s : State) : s.softReset = (s.aborted.lmPerformAll s.held).clearRegisters := by
  have hheld : s.abortHavoc.held = s.held := by rw [s.abortHavoc_rest]
  rw [State.softReset, State.releaseHeld, State.aborted, hheld]

/-- A read among LM accesses is answered, after the answers to the reads before it, with the word the writes before it
leave (20_memory.md R70, R83). -/
theorem State.lmPerformAll_answers (u : State) (xs ys : List LmAccess) (a : Nat) : ∃ w : Word,
    (u.lmPerformAll (xs ++ .read a :: ys)).replies[u.replies.length + readCount xs]? = some (.lm a w) ∧
      w.toNat = if a < u.params.lmWords then u.wordAfter xs a else 0 := by
  have hparams : (u.lmPerformAll xs).params = u.params := by rw [u.lmPerformAll_rest xs]
  refine ⟨BitVec.ofNat 64 ((u.lmPerformAll xs).lmRead a), ?_, ?_⟩
  · obtain ⟨before, hbefore, hcount⟩ := u.lmPerformAll_replies xs
    obtain ⟨behind, hbehind, -⟩ := ((u.lmPerformAll xs).lmPerform (.read a)).lmPerformAll_replies ys
    rw [State.lmPerformAll_append, State.lmPerformAll, hbehind, State.lmPerform, hbefore, ← hcount]
    simp
  · rw [State.lmRead_toNat, State.lmRead, hparams, State.word_lmPerformAll]

/-- Settles O15, with the state `u` on which the held accesses are released. -/
theorem softResetClears : Obligations.SoftResetClears := by
  intro s v hv
  have hrest := s.aborted_rest
  have hparams : s.aborted.params = s.params := by rw [hrest]
  have hreplies : s.aborted.replies = s.replies := by rw [hrest]
  obtain ⟨rs, hrs, hcount⟩ := s.aborted.lmPerformAll_replies s.held
  have hdone := s.aborted.lmPerformAll_rest s.held
  refine ⟨s.aborted, s.softReset, ?write, hrest, fun a => State.aborted_word, ?_⟩
  case write =>
    rw [s.hostAccess_regWrite 0x08 v rfl]
    exact congrArg Host.Outcome.next (if_pos hv)
  rw [s.softReset_eq, State.clearRegisters_lm, State.clearRegisters_replies, State.clearRegisters_pending,
    State.clearRegisters_held, State.clearRegisters_params, State.clearRegisters_turns, State.clearRegisters_rng]
  have hpending : (s.aborted.lmPerformAll s.held).pending = none := by rw [hdone]; rfl
  refine ⟨rfl, rfl, fun a => ?_, ?_, fun xs a ys hsplit => ?_, fun j hj => ?_, hpending, ?_, fun off hoff => ?_, ?_, ?_,
    ?_⟩
  · rw [State.clearRegisters_word, State.word_lmPerformAll]
  · rw [hrs, List.length_append, hreplies, hcount]
  · rw [← hreplies, ← hparams, hsplit]
    exact s.aborted.lmPerformAll_answers xs ys a
  · rw [hrs, hreplies, List.getElem?_append_left hj]
  · rw [hdone]; rfl
  · exact State.readReg_clearRegisters hpending hoff
  all_goals rw [hdone, hrest]

end Sys2Proof.Machine
end

section
/-! # Fixed words, window tables and `Store` -/

namespace Sys2Proof.Machine

/-- Settles O1, by computing the decoder on each word. -/
theorem specWordsDecode : Obligations.SpecWordsDecode :=
  ⟨rfl, rfl, rfl, rfl, rfl, rfl, rfl, rfl, rfl, rfl, rfl, rfl⟩

/-- Settles O47: a window value is at most 15, so its odd part and its shift are small, and the tables are finite. -/
theorem windowTables : Obligations.WindowTables := by
  have tables : ∀ t < 4, ∀ o < 16, o % 2 = 1 → o * 2 ^ t ≤ 15 →
      preSq (o * 2 ^ t) = o.size ∧ mulG (o * 2 ^ t) = (o - 1) / 2 ∧ postSq (o * 2 ^ t) = t := by decide
  intro o t hodd hle
  have ho : o < 16 := by have := Nat.le_mul_of_pos_right o (Nat.two_pow_pos t); omega
  have ht : 2 ^ t < 2 ^ 4 := by have := Nat.le_mul_of_pos_left (2 ^ t) (show 0 < o by omega); omega
  exact tables t ((Nat.pow_lt_pow_iff_right (by decide)).1 ht) o ho hodd hle

/-- Settles O18, from the words a store leaves inside and outside its buffer. -/
theorem storeWritesDigits : Obligations.StoreWritesDigits := fun s a n v =>
  ⟨fun i hi => s.word_store_at a n v i hi, s.val_store a n v, fun x hx => s.word_store_outside a n v x hx,
    fun b m h => s.val_store_apart a n v b m h⟩

end Sys2Proof.Machine
end

section
/-! # How a command that passes its checks ends

The shapes of effect the commands share, each with what it leaves: RES alone, one stored buffer, one stored buffer and a
havocked workspace. -/

namespace Sys2Proof.Machine

@[simp] theorem State.complete_val (s : State) (e : ErrorCode) (a n : Nat) : (s.complete e).val a n = s.val a n :=
  State.val_congr (s := s) (t := s.complete e) rfl a n fun _ _ => rfl

@[simp] theorem State.setRes_val (s : State) (v a n : Nat) : (s.setRes v).val a n = s.val a n :=
  State.val_congr (s := s) (t := s.setRes v) rfl a n fun _ _ => rfl

/-- An effect on the memory and RES, completed, is an end of its command. -/
theorem State.setRes_ended {s u : State} {r : Nat} (hu : u = { s with lm := u.lm, free := u.free })
    (hr : r < s.radix) : ((u.setRes r).complete .noError).Ended s r := by
  have hradix : u.radix = s.radix := by rw [hu]; rfl
  refine ⟨hr, ?_⟩
  rw [State.setRes, hradix, Nat.mod_eq_of_lt hr, hu]
  simp [State.complete]

/-- What a command whose checks pass answers, and that it ends. -/
theorem State.command_ends {s u : State} {f : Form} {r : Nat} (hf : f.firstError s = .noError)
    (hu : u = { s with lm := u.lm, free := u.free }) (hr : r < s.radix) :
    s.command f (u.setRes r) = .next ((u.setRes r).complete .noError) ∧
      ((u.setRes r).complete .noError).Ended s r :=
  ⟨if_pos hf, State.setRes_ended hu hr⟩

/-- The RES of an ended command reads as its result. -/
theorem State.Ended.resVal {s t : State} {r : Nat} (h : t.Ended s r) : t.resVal = r := by
  obtain ⟨hr, ht⟩ := h
  have hradix : t.radix = s.radix := by rw [ht]; rfl
  have hres : t.res = BitVec.ofNat 64 r := by rw [ht]
  rw [State.resVal, hradix, hres, BitVec.toNat_ofNat, Nat.mod_eq_of_lt (hr.trans_le s.radix_le), Nat.mod_eq_of_lt hr]

/-- A command that only reports. -/
theorem State.report_ends {s : State} {f : Form} {r : Nat} (hf : f.firstError s = .noError) (hr : r < s.radix) :
    ∃ t, s.command f (s.setRes r) = .next t ∧ t.Ended s r ∧ t.lm = s.lm := by
  obtain ⟨hexec, hended⟩ := State.command_ends (u := s) hf rfl hr
  exact ⟨_, hexec, hended, rfl⟩

/-- A command that stores one buffer. -/
theorem State.store_ends {s : State} {f : Form} {a n v r : Nat} (hf : f.firstError s = .noError) (hr : r < s.radix)
    (hv : v < s.radix ^ n) :
    ∃ t, s.command f ((s.store a n v).setRes r) = .next t ∧ t.Ended s r ∧ t.val a n = v ∧ t.SameOutside s a n := by
  obtain ⟨hexec, hended⟩ := State.command_ends (u := s.store a n v) hf rfl hr
  refine ⟨_, hexec, hended, ?_, fun x hx => s.word_store_outside a n v x hx⟩
  rw [State.complete_val, State.setRes_val, State.val_store, Nat.mod_eq_of_lt hv]

/-- A command that stores one buffer and leaves its workspace, apart from it, unspecified. -/
theorem State.store_havoc_ends {s : State} {f : Form} {a n v b m r : Nat} (hf : f.firstError s = .noError)
    (hr : r < s.radix) (hv : v < s.radix ^ n) (hapart : Apart b m a n) :
    ∃ t, s.command f (((s.store a n v).havoc b m).setRes r) = .next t ∧ t.Ended s r ∧ t.val a n = v ∧
      t.SameOutsideTwo s a n b m := by
  obtain ⟨hexec, hended⟩ := State.command_ends (u := (s.store a n v).havoc b m) hf rfl hr
  refine ⟨_, hexec, hended, ?_, fun x ha hb => ?_⟩
  · rw [State.complete_val, State.setRes_val, State.val_havoc_apart _ _ _ _ _ hapart, State.val_store,
      Nat.mod_eq_of_lt hv]
  · rw [State.complete_word, State.setRes_word, State.word_havoc_outside _ _ _ _ hb,
      State.word_store_outside _ _ _ _ _ ha]

/-- Two stored buffers and a havocked workspace, all apart: each buffer holds its value, and no other word changes. -/
theorem State.two_stores_havoc (s : State) {a n v b m w c l : Nat} (hab : Apart a n b m) (hac : Apart a n c l)
    (hbc : Apart b m c l) (hv : v < s.radix ^ n) (hw : w < s.radix ^ m) :
    (((s.store a n v).store b m w).havoc c l).val a n = v ∧ (((s.store a n v).store b m w).havoc c l).val b m = w ∧
      ∀ x, (x < a ∨ a + n ≤ x) → (x < b ∨ b + m ≤ x) → (x < c ∨ c + l ≤ x) →
        (((s.store a n v).store b m w).havoc c l).word x = s.word x := by
  refine ⟨?_, ?_, fun x ha hb hc => ?_⟩
  · rw [State.val_havoc_apart _ _ _ _ _ hac.symm, State.val_store_apart _ _ _ _ _ _ hab.symm, State.val_store,
      Nat.mod_eq_of_lt hv]
  · rw [State.val_havoc_apart _ _ _ _ _ hbc.symm, State.val_store, State.store_radix, Nat.mod_eq_of_lt hw]
  · rw [State.word_havoc_outside _ _ _ _ hc, State.word_store_outside _ _ _ _ _ hb,
      State.word_store_outside _ _ _ _ _ ha]

/-! ## The radix and the bits of a buffer -/

theorem State.radix_pow (s : State) (n : Nat) : s.radix ^ n = 2 ^ (n * s.wordBits) := by
  rw [State.radix, ← pow_mul, mul_comm]

theorem State.one_le_wordBits (s : State) : 1 ≤ s.wordBits := by
  unfold State.wordBits
  cases s.params.width <;> decide

theorem State.one_le_bits (s : State) {n : Nat} (hn : 1 ≤ n) : 1 ≤ n * s.wordBits :=
  Nat.mul_pos hn s.one_le_wordBits

/-- The weight of the top bit is half the buffer's modulus. -/
theorem State.two_mul_topWeight (s : State) {n : Nat} (hn : 1 ≤ n) :
    2 * 2 ^ (n * s.wordBits - 1) = s.radix ^ n := by
  rw [s.radix_pow, ← pow_succ', Nat.sub_add_cancel (s.one_le_bits hn)]

theorem State.lt_radix_of_le_one (s : State) {r : Nat} (h : r ≤ 1) : r < s.radix := h.trans_lt s.one_lt_radix

/-- Bitwise operations keep numbers below a power of the radix below it. -/
theorem State.bitwise_lt_radix_pow (s : State) {n x y : Nat} (hx : x < s.radix ^ n) (hy : y < s.radix ^ n) :
    x &&& y < s.radix ^ n ∧ x ||| y < s.radix ^ n ∧ x ^^^ y < s.radix ^ n := by
  rw [s.radix_pow] at hx hy ⊢
  exact ⟨Nat.and_lt_two_pow x hy, Nat.or_lt_two_pow hx hy, Nat.xor_lt_two_pow hx hy⟩

end Sys2Proof.Machine
end

section
/-! # 41_compare.md: the outcome of every compare -/

namespace Sys2Proof.Machine

theorem asBit_decide (p : Prop) [Decidable p] : asBit (decide p) = if p then 1 else 0 := by
  simp only [asBit, decide_eq_true_eq]

theorem State.outcome_lt_radix (s : State) (p : Prop) [Decidable p] : (if p then 1 else 0) < s.radix :=
  s.lt_radix_of_le_one (by split <;> decide)

theorem State.compare_ends {s : State} (h : s.CompareReady) (rel : Nat → Nat → Prop) [DecidableRel rel] :
    ∃ t, s.compare (fun x y => decide (rel x y)) = .next t ∧
      t.Ended s (if rel (s.val (s.arg 0) (s.arg 2)) (s.val (s.arg 1) (s.arg 2)) then 1 else 0) ∧ t.lm = s.lm := by
  rw [State.compare, asBit_decide]
  exact State.report_ends (compare_passes s h) (s.outcome_lt_radix _)

theorem State.compareX_ends {s : State} (h : s.CompareXReady) (rel : Nat → Nat → Prop) [DecidableRel rel] :
    ∃ t, s.compareX (fun x y => decide (rel x y)) = .next t ∧
      t.Ended s (if rel (s.val (s.arg 0) (s.arg 1)) (s.val (s.arg 2) (s.arg 3)) then 1 else 0) ∧ t.lm = s.lm := by
  rw [State.compareX, asBit_decide]
  exact State.report_ends (compareX_passes s h) (s.outcome_lt_radix _)

/-- Settles O24, relation by relation. -/
theorem equalLengthCompares : Obligations.EqualLengthCompares := fun _ h =>
  ⟨State.compare_ends h (· = ·), State.compare_ends h (· ≠ ·), State.compare_ends h (· > ·),
    State.compare_ends h (· < ·), State.compare_ends h (· ≥ ·), State.compare_ends h (· ≤ ·)⟩

/-- Settles O25, relation by relation. -/
theorem sizeAwareCompares : Obligations.SizeAwareCompares := fun _ h =>
  ⟨State.compareX_ends h (· = ·), State.compareX_ends h (· ≠ ·), State.compareX_ends h (· > ·),
    State.compareX_ends h (· < ·), State.compareX_ends h (· ≥ ·), State.compareX_ends h (· ≤ ·)⟩

end Sys2Proof.Machine
end

section
/-! # 42_bitwise.md: logical operations, bit tests and counts, shifts -/

namespace Sys2Proof.Machine

/-- A command that replaces X by a value of N words computed from X and Y. -/
theorem State.inPlace_ends {s : State} (h : s.InPlaceReady) {v r : Nat} (hr : r < s.radix)
    (hv : v < s.radix ^ s.arg 2) :
    ∃ t, s.command (formInPlace s) ((s.store (s.arg 0) (s.arg 2) v).setRes r) = .next t ∧ t.Ended s r ∧
      t.val (s.arg 0) (s.arg 2) = v ∧ t.SameOutside s (s.arg 0) (s.arg 2) :=
  State.store_ends (inPlace_passes s h) hr hv

/-- Settles O26: a bitwise operation on two values of N words is a value of N words. -/
theorem logicalResults : Obligations.LogicalResults := by
  intro s h
  obtain ⟨hand, hor, hxor⟩ := s.bitwise_lt_radix_pow (s.val_lt (s.arg 0) (s.arg 2)) (s.val_lt (s.arg 1) (s.arg 2))
  exact ⟨State.inPlace_ends h s.radix_pos hand, State.inPlace_ends h s.radix_pos hor,
    State.inPlace_ends h s.radix_pos hxor⟩

/-- A command that replaces X by a value of N words. -/
theorem State.unary_ends {s : State} (h : s.UnaryReady) {v r : Nat} (hr : r < s.radix) (hv : v < s.radix ^ s.arg 1) :
    ∃ t, s.command (formUnary s) ((s.store (s.arg 0) (s.arg 1) v).setRes r) = .next t ∧ t.Ended s r ∧
      t.val (s.arg 0) (s.arg 1) = v ∧ t.SameOutside s (s.arg 0) (s.arg 1) :=
  State.store_ends (unary_passes s h) hr hv

/-- Settles O27: each result is below `B^N`. -/
theorem notSetAndClearResults : Obligations.NotSetAndClearResults := by
  intro s h
  have hx := s.val_lt (s.arg 0) (s.arg 1)
  have htop : 2 ^ (s.arg 1 * s.wordBits - 1) < s.radix ^ s.arg 1 := by
    have hpos := Nat.two_pow_pos (s.arg 1 * s.wordBits - 1)
    have hhalf := s.two_mul_topWeight h.1
    omega
  have hone : 1 < s.radix ^ s.arg 1 := Nat.one_lt_pow (Nat.one_le_iff_ne_zero.1 h.1) s.one_lt_radix
  obtain ⟨-, hset, -⟩ := s.bitwise_lt_radix_pow hx htop
  obtain ⟨-, hsetlsb, -⟩ := s.bitwise_lt_radix_pow hx hone
  have hnot : s.radix ^ s.arg 1 - 1 - s.val (s.arg 0) (s.arg 1) < s.radix ^ s.arg 1 := by omega
  have hclrlsb := (Nat.sub_le (s.val (s.arg 0) (s.arg 1)) (s.val (s.arg 0) (s.arg 1) % 2)).trans_lt hx
  exact ⟨State.unary_ends h s.radix_pos hnot, State.unary_ends h s.radix_pos hset,
    State.unary_ends h s.radix_pos hsetlsb, State.unary_ends h s.radix_pos (Nat.and_le_left.trans_lt hx),
    State.unary_ends h s.radix_pos hclrlsb⟩

/-- Settles O29: a shift's result is below `B^N`, and 0 from the buffer's width on. -/
theorem shiftResults : Obligations.ShiftResults := by
  intro s h
  have hpos : 0 < s.radix ^ s.arg 1 := Nat.pow_pos s.radix_pos
  refine ⟨State.unary_ends h s.radix_pos ?_, State.unary_ends h s.radix_pos ?_⟩
  all_goals split
  · exact hpos
  · exact Nat.mod_lt _ hpos
  · exact hpos
  · exact (Nat.div_le_self _ _).trans_lt (s.val_lt _ _)

end Sys2Proof.Machine
end

section
/-! # 42_bitwise.md R164, R165, R170, R171: bit tests and counts -/

namespace Sys2Proof.Machine

/-- A word of a buffer is a digit of its value (00_scope.md R12). -/
theorem State.val_digit (s : State) (a n i : Nat) (h : i < n) :
    s.val a n / s.radix ^ (n - 1 - i) % s.radix = s.word (a + i) := by
  induction n with
  | zero => omega
  | succ n ih =>
    have hlast : s.word (a + n) < s.radix := s.word_lt _
    rw [State.val, mul_comm]
    by_cases hi : i = n
    · subst hi
      rw [show i + 1 - 1 - i = 0 by omega, pow_zero, Nat.div_one, Nat.mul_add_mod, Nat.mod_eq_of_lt hlast]
    · rw [show n + 1 - 1 - i = n - 1 - i + 1 by omega, pow_succ', ← Nat.div_div_eq_div_mul,
        Nat.mul_add_div s.radix_pos, Nat.div_eq_of_lt hlast, add_zero, ih (by omega)]

/-- The first word of a buffer is what its value holds above the other words. -/
theorem State.val_div_first (s : State) {a n : Nat} (hn : 1 ≤ n) : s.val a n / s.radix ^ (n - 1) = s.word a := by
  have hlt : s.val a n / s.radix ^ (n - 1) < s.radix := by
    rw [Nat.div_lt_iff_lt_mul (Nat.pow_pos s.radix_pos), ← pow_succ', Nat.sub_add_cancel hn]
    exact s.val_lt a n
  have hdigit := s.val_digit a n 0 hn
  rwa [Nat.sub_zero, Nat.add_zero, Nat.mod_eq_of_lt hlt] at hdigit

/-- The top bit of a buffer is the top bit of its first word (42_bitwise.md R164). -/
theorem State.val_div_topWeight (s : State) {a n : Nat} (hn : 1 ≤ n) :
    s.val a n / 2 ^ (n * s.wordBits - 1) = s.word a / 2 ^ (s.wordBits - 1) := by
  have hbits : n * s.wordBits - 1 = (n - 1) * s.wordBits + (s.wordBits - 1) := by
    obtain ⟨m, rfl⟩ := Nat.exists_eq_add_of_le' hn
    have := s.one_le_wordBits
    rw [Nat.add_sub_cancel, Nat.succ_mul]
    omega
  rw [hbits, pow_add, ← Nat.div_div_eq_div_mul, ← s.radix_pow, s.val_div_first hn]

theorem State.two_dvd_radix (s : State) : 2 ∣ s.radix := dvd_pow_self 2 (Nat.one_le_iff_ne_zero.1 s.one_le_wordBits)

/-- The low bit of a buffer is the low bit of its last word (42_bitwise.md R165). -/
theorem State.val_mod_two (s : State) {a n : Nat} (hn : 1 ≤ n) : s.val a n % 2 = s.word (a + n - 1) % 2 := by
  have hdigit := s.val_digit a n (n - 1) (by omega)
  rw [show n - 1 - (n - 1) = 0 by omega, pow_zero, Nat.div_one, ← Nat.add_sub_assoc hn] at hdigit
  rw [← hdigit, Nat.mod_mod_of_dvd _ s.two_dvd_radix]

theorem bitlen_eq_size (v : Nat) : bitlen v = v.size := by
  unfold bitlen
  split
  · next h => rw [h, Nat.size_zero]
  · next h =>
    have hle : v.size ≤ v.log2 + 1 := Nat.size_le.2 Nat.lt_log2_self
    have hlt : v.log2 < v.size := Nat.lt_size.2 (Nat.log2_self_le h)
    omega

theorem trailingZeros_le (fuel x : Nat) : trailingZeros fuel x ≤ fuel := by
  induction fuel generalizing x with
  | zero => exact le_rfl
  | succ fuel ih =>
    rw [trailingZeros]
    split
    · exact Nat.zero_le _
    · exact Nat.succ_le_succ (ih _)

/-- The count is the largest power of two that divides a nonzero number within the fuel (42_bitwise.md R171). -/
theorem trailingZeros_spec {fuel x : Nat} (hx : x ≠ 0) (hlt : x < 2 ^ fuel) :
    2 ^ trailingZeros fuel x ∣ x ∧ ¬2 ^ (trailingZeros fuel x + 1) ∣ x := by
  induction fuel generalizing x with
  | zero => rw [pow_zero] at hlt; omega
  | succ fuel ih =>
    rw [trailingZeros]
    split
    · next hodd => exact ⟨one_dvd x, by rw [zero_add, pow_one]; omega⟩
    · next heven =>
      rw [pow_succ] at hlt
      obtain ⟨hdvd, hnot⟩ := ih (x := x / 2) (by omega) (by omega)
      obtain ⟨y, rfl⟩ : 2 ∣ x := by omega
      rw [Nat.mul_div_cancel_left y two_pos] at hdvd hnot ⊢
      rw [pow_succ', pow_succ' 2 (_ + 1), Nat.mul_dvd_mul_iff_left two_pos, Nat.mul_dvd_mul_iff_left two_pos]
      exact ⟨hdvd, hnot⟩

/-- The bits of a buffer inside an admitted memory are few enough for RES to count them. -/
theorem State.bits_lt_radix {s : State} (h : s.params.Admitted) {a n : Nat} (hfit : s.Fits a n) :
    n * s.wordBits < s.radix := by
  obtain ⟨-, hmax⟩ := h
  have hn : n ≤ 2 ^ 24 := by omega
  unfold State.radix State.wordBits
  cases s.params.width <;> simp only [Width.bits] <;> omega

/-- A command that reports on X. -/
theorem State.test_ends {s : State} (h : s.TestReady) {r : Nat} (hr : r < s.radix) :
    ∃ t, s.command (formTest s) (s.setRes r) = .next t ∧ t.Ended s r ∧ t.lm = s.lm :=
  State.report_ends (test_passes s h) hr

theorem State.mod_two_lt_radix (s : State) (v : Nat) : v % 2 < s.radix := s.lt_radix_of_le_one (by omega)

/-- Settles O28: the tested bits are bits of the first and the last word, and both counts are at most `N*W`. -/
theorem bitTestsAndCounts : Obligations.BitTestsAndCounts := by
  intro s hadm h
  have ⟨hn, hfit⟩ := h
  have hbits : s.arg 1 * s.wordBits < s.radix := State.bits_lt_radix hadm hfit
  refine ⟨?tstmsb, ?tstlsb, ?clz, ?ctz⟩
  case tstmsb =>
    obtain ⟨t, hexec, hended, hlm⟩ :=
      State.test_ends h (s.mod_two_lt_radix (s.val (s.arg 0) (s.arg 1) / 2 ^ (s.arg 1 * s.wordBits - 1)))
    exact ⟨t, hexec, hended, hlm, by rw [hended.resVal, s.val_div_topWeight hn]⟩
  case tstlsb =>
    obtain ⟨t, hexec, hended, hlm⟩ := State.test_ends h (s.mod_two_lt_radix (s.val (s.arg 0) (s.arg 1)))
    exact ⟨t, hexec, hended, hlm, by rw [hended.resVal, s.val_mod_two hn]⟩
  case clz =>
    rw [← bitlen_eq_size]
    exact State.test_ends h ((Nat.sub_le _ _).trans_lt hbits)
  case ctz =>
    have hx : s.val (s.arg 0) (s.arg 1) < 2 ^ (s.arg 1 * s.wordBits) := s.radix_pow _ ▸ s.val_lt _ _
    by_cases hzero : s.val (s.arg 0) (s.arg 1) = 0
    · obtain ⟨t, hexec, hended, hlm⟩ := State.test_ends h hbits
      refine ⟨t, _, ?_, hended, hlm, fun _ => rfl, absurd hzero⟩
      rw [← hexec]
      simp only [exec, execCtz, State.report, if_pos hzero, State.unaryBits]
    · obtain ⟨t, hexec, hended, hlm⟩ := State.test_ends h
        ((trailingZeros_le (s.arg 1 * s.wordBits) (s.val (s.arg 0) (s.arg 1))).trans_lt hbits)
      refine ⟨t, _, ?_, hended, hlm, fun hz => absurd hz hzero, fun _ => trailingZeros_spec hzero hx⟩
      rw [← hexec]
      simp only [exec, execCtz, State.report, if_neg hzero, State.unaryBits]

end Sys2Proof.Machine
end

section
/-! # 43_arith.md: sums, differences, products, and the bits they carry out -/

namespace Sys2Proof.Machine

/-- The carry of a sum of two values of N words is one bit (43_arith.md R206). -/
theorem State.carry_lt_radix (s : State) {M x y : Nat} (hx : x < M) (hy : y < M) : (x + y) / M < s.radix := by
  refine s.lt_radix_of_le_one (Nat.lt_succ_iff.1 ?_)
  rw [Nat.div_lt_iff_lt_mul (by omega)]
  omega

/-- The carry word of an accumulated product by a word is a word (43_arith.md R206). -/
theorem mul_word_carry_lt {M B r x y : Nat} (hr : r < M) (hx : x < M) (hy : y < B) : (r + x * y) / M < B := by
  rw [Nat.div_lt_iff_lt_mul (by omega)]
  calc r + x * y < M + M * y := Nat.add_lt_add_of_lt_of_le hr (Nat.mul_le_mul_right y hx.le)
    _ = (y + 1) * M := by ring
    _ ≤ B * M := Nat.mul_le_mul_right M hy

theorem State.borrow_lt_radix (s : State) (x y : Nat) : borrowOut x y < s.radix :=
  s.lt_radix_of_le_one (asBit_le _)

/-- A difference stored modulo `B^N` reads back as the integer residue (43_arith.md R191, R193). -/
theorem State.difference_ends {s : State} {f : Form} {a n x y : Nat} (hf : f.firstError s = .noError) :
    ∃ t, s.command f ((s.store a n (subMod (s.radix ^ n) x y)).setRes (borrowOut x y)) = .next t ∧
      t.Ended s (if x < y then 1 else 0) ∧ (t.val a n : Int) = ((x : Int) - y) % (s.radix ^ n : Nat) ∧
        t.SameOutside s a n := by
  have hpos : 0 < s.radix ^ n := Nat.pow_pos s.radix_pos
  obtain ⟨t, hexec, hended, hval, hout⟩ :=
    State.store_ends (a := a) hf (s.borrow_lt_radix x y) (subMod_lt (s.radix ^ n) x y hpos)
  exact ⟨t, hexec, asBit_decide (x < y) ▸ hended, by rw [hval, subMod_cast _ x y hpos], hout⟩

/-- Settles O30: a sum of two values of N words carries at most 1, and a difference is taken modulo `B^N`. -/
theorem addSubResults : Obligations.AddSubResults := by
  intro s h
  exact ⟨State.inPlace_ends h (s.carry_lt_radix (s.val_lt _ _) (s.val_lt _ _))
    (Nat.mod_lt _ (Nat.pow_pos s.radix_pos)), State.difference_ends (inPlace_passes s h)⟩

/-- Settles O31: the shorter operand is below `B^XN` too. -/
theorem addxSubxResults : Obligations.AddxSubxResults := by
  intro s h
  have hf := inPlaceX_passes s h
  obtain ⟨-, -, hle, -⟩ := h
  have hy := (s.val_lt (s.arg 2) (s.arg 3)).trans_le (Nat.pow_le_pow_right s.radix_pos hle)
  exact ⟨State.store_ends hf (s.carry_lt_radix (s.val_lt _ _) hy) (Nat.mod_lt _ (Nat.pow_pos s.radix_pos)),
    State.difference_ends hf⟩

/-- Settles O32: the carry word of a product by a word, accumulated or not, is a word. -/
theorem multiplyByWordResults : Obligations.MultiplyByWordResults := by
  intro s h
  have hpos : 0 < s.radix ^ s.arg 2 := Nat.pow_pos s.radix_pos
  have hx := s.val_lt (s.arg 1) (s.arg 2)
  have hy := s.word_lt (s.arg 3)
  have hset := mul_word_carry_lt hpos hx hy
  have hadd := mul_word_carry_lt (s.val_lt (s.arg 0) (s.arg 2)) hx hy
  rw [zero_add] at hset
  exact ⟨State.store_ends (mulWord_passes s .output (by decide) h) hset (Nat.mod_lt _ hpos),
    State.store_ends (mulWord_passes s .inout (by decide) h) hadd (Nat.mod_lt _ hpos)⟩

/-- A product of values of `n` and `m` words has `n + m` words. -/
theorem State.mul_val_lt (s : State) (a n b m : Nat) : s.val a n * s.val b m < s.radix ^ (n + m) :=
  pow_add s.radix n m ▸ Nat.mul_lt_mul'' (s.val_lt a n) (s.val_lt b m)

/-- Settles O33: the product fits its buffer. -/
theorem mulSqrResults : Obligations.MulSqrResults := by
  intro s
  refine ⟨fun h => State.store_ends (mul_passes s h) s.radix_pos (s.mul_val_lt _ _ _ _), fun h => ?_⟩
  exact State.store_ends (sqr_passes s h) s.radix_pos (two_mul (s.arg 2) ▸ s.mul_val_lt _ _ _ _)

/-- Settles O34: the doubled value carries its top bit out, and `B^N - 1 - x + 1` is `B^N - x`. -/
theorem doubleHalveNegateResults : Obligations.DoubleHalveNegateResults := by
  intro s h
  have hx := s.val_lt (s.arg 0) (s.arg 1)
  have hpos : 0 < s.radix ^ s.arg 1 := Nat.pow_pos s.radix_pos
  have htop : s.val (s.arg 0) (s.arg 1) / 2 ^ (s.arg 1 * s.wordBits - 1) < s.radix := by
    refine s.lt_radix_of_le_one (Nat.lt_succ_iff.1 ?_)
    rw [Nat.div_lt_iff_lt_mul (Nat.two_pow_pos _), s.two_mul_topWeight h.1]
    exact hx
  have hneg : s.radix ^ s.arg 1 - s.val (s.arg 0) (s.arg 1) =
      s.radix ^ s.arg 1 - 1 - s.val (s.arg 0) (s.arg 1) + 1 := by omega
  refine ⟨State.unary_ends h htop (Nat.mod_lt _ hpos), State.unary_ends h (s.mod_two_lt_radix _)
    ((Nat.div_le_self _ 2).trans_lt hx), ?_⟩
  rw [hneg]
  exact State.unary_ends h s.radix_pos (Nat.mod_lt _ hpos)

end Sys2Proof.Machine
end

section
/-! # 44_divide.md, 45_data.md: remainders, quotients, gcd; wipe and copy -/

namespace Sys2Proof.Machine

/-- A normalized divisor leaves a quotient that fits `XN - YN + 1` words (44_divide.md R221). -/
theorem State.quotient_lt (s : State) {x y n m : Nat} (hx : x < s.radix ^ n) (hm : 1 ≤ m) (hmn : m ≤ n)
    (hy : 2 ^ (m * s.wordBits - 1) ≤ y) : x / y < s.radix ^ (n - m + 1) := by
  have hyB : s.radix ^ m ≤ s.radix * y := by
    rw [← s.two_mul_topWeight hm]
    exact Nat.mul_le_mul s.one_lt_radix hy
  rw [Nat.div_lt_iff_lt_mul ((Nat.two_pow_pos _).trans_le hy)]
  calc x < s.radix ^ n := hx
    _ = s.radix ^ (n - m) * s.radix ^ m := by rw [← pow_add, Nat.sub_add_cancel hmn]
    _ ≤ s.radix ^ (n - m) * (s.radix * y) := Nat.mul_le_mul_left _ hyB
    _ = s.radix ^ (n - m + 1) * y := by rw [pow_succ]; ring

/-- Settles O35: the remainder is below the divisor, and the quotient of a normalized one fits its buffer. -/
theorem divisionResults : Obligations.DivisionResults := by
  intro s
  refine ⟨fun h => ?_, fun h => ?_⟩
  · have hf := modw_passes s h
    obtain ⟨-, -, -, hy⟩ := h
    have hlt := (Nat.mod_lt (s.val (s.arg 0) (s.arg 1)) (Nat.pos_of_ne_zero hy)).trans (s.word_lt _)
    exact State.report_ends hf hlt
  · have hf := divmod_passes s h
    obtain ⟨-, hm, hmn, -, -, -, -, -, -, -, -, -, -, -, hQR, hQW, hRW, -, -, -, hnorm⟩ := h
    intro x y
    have hypos : 0 < y := (Nat.two_pow_pos _).trans_le hnorm
    have hquot : x / y < s.radix ^ (s.arg 1 - s.arg 3 + 1) := s.quotient_lt (s.val_lt _ _) hm hmn hnorm
    have hrem : x % y < s.radix ^ s.arg 3 := (Nat.mod_lt x hypos).trans (s.val_lt _ _)
    obtain ⟨hexec, hended⟩ := State.command_ends (u := ((s.store (s.arg 4) (s.arg 1 - s.arg 3 + 1) (x / y)).store
      (s.arg 5) (s.arg 3) (x % y)).havoc (s.arg 6) (s.arg 1 + s.arg 3 + 2)) hf rfl s.radix_pos
    obtain ⟨hvalQ, hvalR, hout⟩ := s.two_stores_havoc hQR hQW hRW hquot hrem
    refine ⟨_, hexec, hended, ?_, ?_, fun a hQ hR hW => ?_⟩
    · rw [State.complete_val, State.setRes_val, hvalQ]
    · rw [State.complete_val, State.setRes_val, hvalR]
    · rw [State.complete_word, State.setRes_word, hout a hQ hR hW]

/-- A greatest common divisor is no larger than the operands, both of N words. -/
theorem gcd_lt_of_lt {x y M : Nat} (hx : x < M) (hy : y < M) : Nat.gcd x y < M := by
  rcases Nat.eq_zero_or_pos x with rfl | hpos
  · rwa [Nat.gcd_zero_left]
  · exact (Nat.gcd_le_left y hpos).trans_lt hx

/-- Settles O36: the gcd, computed before R is written, fits N words. -/
theorem gcdResult : Obligations.GcdResult := by
  intro s h
  have hf := gcd_passes s h
  obtain ⟨-, -, -, -, -, hapart, -⟩ := h
  exact State.store_havoc_ends hf s.radix_pos (gcd_lt_of_lt (s.val_lt _ _) (s.val_lt _ _)) hapart

/-- Settles O37: the digits of 0 are 0, and the digits of a buffer's value are its words. -/
theorem zeroCopyResults : Obligations.ZeroCopyResults := by
  intro s
  refine ⟨fun h => ?_, fun h => ?_⟩
  · obtain ⟨hexec, hended⟩ := State.command_ends (u := s.store (s.arg 0) (s.arg 1) 0) (zero_passes s h) rfl s.radix_pos
    refine ⟨_, hexec, hended, fun i hi => ?_, fun x hx => ?_⟩
    · rw [State.complete_word, State.setRes_word, s.word_store_at _ _ _ _ hi, Nat.zero_div, Nat.zero_mod]
    · rw [State.complete_word, State.setRes_word, s.word_store_outside _ _ _ _ hx]
  · obtain ⟨hexec, hended⟩ := State.command_ends (u := s.store (s.arg 0) (s.arg 2) (s.val (s.arg 1) (s.arg 2)))
      (copy_passes s h) rfl s.radix_pos
    refine ⟨_, hexec, hended, fun i hi => ?_, fun x hx => ?_⟩
    · rw [State.complete_word, State.setRes_word, s.word_store_at _ _ _ _ hi, s.val_digit _ _ _ hi]
    · rw [State.complete_word, State.setRes_word, s.word_store_outside _ _ _ _ hx]

end Sys2Proof.Machine
end

section
/-! # 46_barrett.md: the slots and the modular commands -/

namespace Sys2Proof.Machine

/-! ## A ready slot holds a modulus -/

theorem State.SlotReady.modulus_lt {s : State} {k : Fin 4} (h : s.SlotReady k) :
    s.modulus k < s.radix ^ s.slotN k := by
  obtain ⟨hvalid, hsound⟩ := h
  obtain ⟨-, -, hlt, -⟩ := hsound hvalid
  exact hlt

theorem State.SlotReady.one_lt_modulus {s : State} {k : Fin 4} (h : s.SlotReady k) : 1 < s.modulus k := by
  obtain ⟨hvalid, hsound⟩ := h
  obtain ⟨-, hgt, -⟩ := hsound hvalid
  exact (Nat.one_le_pow _ _ s.radix_pos).trans_lt hgt

theorem State.SlotReady.modulus_pos {s : State} {k : Fin 4} (h : s.SlotReady k) : 0 < s.modulus k :=
  Nat.zero_lt_of_lt h.one_lt_modulus

/-- A command on a ready slot that leaves a residue in R (46_barrett.md R264, R265). -/
theorem State.residue_ends {s : State} {k : Fin 4} {f : Form} {r v wk wn : Nat} (h : s.SlotReady k)
    (hf : f.firstError s = .noError) (hv : v < s.modulus k) (hapart : Apart wk wn r (s.slotN k)) :
    ∃ t, s.command f (s.residue k r v wk wn) = .next t ∧ t.Ended s 0 ∧ t.val r (s.slotN k) = v ∧
      t.SameOutsideTwo s r (s.slotN k) wk wn :=
  State.store_havoc_ends hf s.radix_pos (hv.trans h.modulus_lt) hapart

/-! ## SETMOD and CTXCLR -/

/-- An end of a command that sets a slot besides. -/
theorem State.setSlot_ended {s u : State} {k : Fin 4} {c : Slot} (hu : u = { s with lm := u.lm, free := u.free }) :
    { (((u.setSlot k c).setRes 0).complete .noError) with ctx := s.ctx }.Ended s 0 := by
  have hended := State.setRes_ended hu s.radix_pos
  have hctx : u.ctx = s.ctx := by rw [hu]
  rw [← hctx]
  exact hended

/-- Settles O38, from what SETMOD builds. -/
theorem setmodEstablishesSlot : Obligations.SetmodEstablishesSlot := by
  intro s k h
  have hexec : exec (.setmod k) s = .next ((s.setmodBuilt k).complete .noError) := if_pos (setmod_passes s k h)
  have hmodulus : ((s.setmodBuilt k).complete .noError).modulus k = (s.setmodBuilt k).modulus k :=
    State.complete_val _ _ _ _
  have hcoefficient : ((s.setmodBuilt k).complete .noError).coefficient k = (s.setmodBuilt k).coefficient k :=
    State.complete_val _ _ _ _
  refine ⟨_, hexec, State.setSlot_ended (u := s.setmodStored.havoc (s.arg 3) (5 * s.arg 1 + 4)) rfl, ?_,
    s.setmodBuilt_slotBase k, s.setmodBuilt_slotN k, hmodulus.trans (State.setmodBuilt_modulus h),
    hcoefficient.trans (State.setmodBuilt_coefficient h), fun j hj => s.setmodBuilt_slot_other hj,
    fun a hbase hwk => s.setmodBuilt_word k a hbase hwk⟩
  rw [State.complete_slot, s.setmodBuilt_slot_same]

/-- Settles O39, from the state CTXCLR completes. -/
theorem ctxclrEmptiesSlot : Obligations.CtxclrEmptiesSlot := by
  intro s k
  have hslot : ((((s.setSlot k .empty).setRes 0).complete .noError).slot k) = .empty := s.setSlot_slot_same k .empty
  refine ⟨_, ctxclr_eq k s, State.setSlot_ended (u := s) rfl, ?_, ?_, ?_,
    fun j hj => s.setSlot_slot_other j k _ hj, rfl⟩
  · rw [hslot, Slot.empty]
  · rw [State.slotBase, hslot]; rfl
  · rw [State.slotN, hslot]; rfl

/-! ## Residues -/

/-- Settles O40: a residue is below the modulus. -/
theorem reduceSquareResults : Obligations.ReduceSquareResults := by
  intro s k
  refine ⟨fun h => ?_, fun h => ?_⟩
  · have hf := reduce_passes s k h
    obtain ⟨hready, -, -, -, -, -, -, hapart, -⟩ := h
    exact State.residue_ends hready hf (Nat.mod_lt _ hready.modulus_pos) hapart
  · have hf := sqrmod_passes s k h
    obtain ⟨hready, -, -, -, -, -, -, hapart, -⟩ := h
    exact State.residue_ends hready hf (Nat.mod_lt _ hready.modulus_pos) hapart

/-- Settles O41: each result is a residue, SUBMOD's that of the integer difference. -/
theorem modularPairResults : Obligations.ModularPairResults := by
  intro s k h n m x y
  have hf := modPair_passes s k h
  obtain ⟨hready, -, -, -, -, -, -, -, -, -, -, hapart, -⟩ := h
  have hpos := hready.modulus_pos
  refine ⟨State.residue_ends hready hf (Nat.mod_lt _ hpos) hapart, ?_,
    State.residue_ends hready hf (Nat.mod_lt _ hpos) hapart⟩
  obtain ⟨t, hexec, hended, hval, hout⟩ := State.residue_ends hready hf (subMod_lt m x y hpos) hapart
  exact ⟨t, hexec, hended, by rw [hval, subMod_cast m x y hpos], hout⟩

/-- What INVMOD answers once its checks pass, by whether the value is invertible (46_barrett.md R262). -/
theorem execInvmod_effect (k : Fin 4) (s : State) : exec (.invmod k) s = s.command (formInvmod s k)
    (if Nat.gcd (s.val (s.arg 0) (s.arg 1) % s.modulus k) (s.modulus k) = 1 then
      ((s.store (s.arg 2) (s.slotN k) (invMod (s.modulus k) (s.val (s.arg 0) (s.arg 1) % s.modulus k))).havoc (s.arg 3)
        (6 * s.slotN k + 6)).setRes 1
    else (s.havoc (s.arg 3) (6 * s.slotN k + 6)).setRes 0) := rfl

/-- Settles O42, by whether the value is invertible. -/
theorem invmodResult : Obligations.InvmodResult := by
  intro s k n m x h hodd
  have hf := invmod_passes s k h hodd
  obtain ⟨hready, -, -, -, -, -, -, hapart, -⟩ := h
  refine ⟨fun hg => ?_, fun hg => ?_⟩ <;> rw [execInvmod_effect]
  · obtain ⟨hlt, hinv⟩ := invMod_spec m (x % m) hready.one_lt_modulus hg
    rw [if_pos hg]
    obtain ⟨t, hexec, hended, hval, hout⟩ :=
      State.store_havoc_ends hf s.one_lt_radix (hlt.trans hready.modulus_lt) hapart
    exact ⟨t, hexec, hended, hval.trans_lt hlt, by rw [hval]; exact hinv, hout⟩
  · rw [if_neg hg]
    obtain ⟨hexec, hended⟩ := State.command_ends (u := s.havoc (s.arg 3) (6 * n + 6)) hf rfl s.radix_pos
    refine ⟨_, hexec, hended, fun a ha => ?_⟩
    rw [State.complete_word, State.setRes_word, State.word_havoc_outside _ _ _ _ ha]

end Sys2Proof.Machine
end

section
/-! # 47_powmod.md: the slide table and the exponentiations -/

namespace Sys2Proof.Machine

theorem State.storeTable_radix (s : State) (a n : Nat) (tab : Nat → Nat) (k : Nat) :
    (s.storeTable a n tab k).radix = s.radix := by
  rw [s.storeTable_eq]; rfl

/-- The entries stored read back modulo `B^n`. -/
theorem State.storeTable_val (s : State) (a n : Nat) (tab : Nat → Nat) (k : Nat) {i : Nat} (hi : i < k) :
    (s.storeTable a n tab k).val (a + i * n) n = tab i % s.radix ^ n := by
  induction k with
  | zero => omega
  | succ k ih =>
    rw [State.storeTable]
    by_cases hik : i = k
    · rw [hik, State.val_store, s.storeTable_radix]
    · have hle : (i + 1) * n ≤ k * n := Nat.mul_le_mul_right n (by omega)
      rw [Nat.succ_mul] at hle
      rw [State.val_store_apart _ _ _ _ _ _ (by omega), ih (by omega)]

/-- A table leaves every word outside its entries. -/
theorem State.storeTable_word (s : State) (a n : Nat) (tab : Nat → Nat) (k : Nat) {x : Nat}
    (hx : x < a ∨ a + k * n ≤ x) : (s.storeTable a n tab k).word x = s.word x := by
  induction k with
  | zero => rfl
  | succ k ih =>
    rw [Nat.succ_mul] at hx
    rw [State.storeTable, State.word_store_outside _ _ _ _ _ (by omega), ih (by omega)]

/-- Storing a table and havocking a workspace changes the memory and the free counter only. -/
theorem State.storeTable_havoc_rest (s : State) (a n : Nat) (tab : Nat → Nat) (k b m : Nat) :
    let u := (s.storeTable a n tab k).havoc b m
    u = { s with lm := u.lm, free := u.free } := by
  rw [s.storeTable_eq]; rfl

/-- Settles O43: the eight entries are residues, apart from each other and from the workspace. -/
theorem slideBuildsOddPowers : Obligations.SlideBuildsOddPowers := by
  intro s k h n x
  have hf := slide_passes s k h
  obtain ⟨hready, -, -, -, -, -, -, hapart, -⟩ := h
  obtain ⟨hexec, hended⟩ := State.command_ends hf
    (s.storeTable_havoc_rest (s.arg 2) n (oddPower (s.modulus k) x) 8 (s.arg 3) (4 * n + 2)) s.radix_pos
  refine ⟨_, hexec, hended, fun i hi => ?_, fun a ht hw => ?_⟩
  · have hin : (i + 1) * n ≤ 8 * n := Nat.mul_le_mul_right n (by omega)
    rw [Nat.succ_mul] at hin
    rw [State.complete_val, State.setRes_val, State.val_havoc_apart _ _ _ _ _ (by omega), s.storeTable_val _ _ _ _ hi]
    exact Nat.mod_eq_of_lt ((Nat.mod_lt _ hready.modulus_pos).trans hready.modulus_lt)
  · rw [State.complete_word, State.setRes_word, State.word_havoc_outside _ _ _ _ hw, s.storeTable_word _ _ _ _ ht]

/-! ## The decode of any table is a residue -/

theorem squareTimes_lt {m : Nat} (hm : 0 < m) (k : Nat) {acc : Nat} (h : acc < m) : squareTimes m k acc < m := by
  induction k generalizing acc with
  | zero => exact h
  | succ k ih => exact ih (Nat.mod_lt _ hm)

theorem applyWindow_lt {m : Nat} (hm : 0 < m) (tab : Nat → Nat) (v acc : Nat) : applyWindow m tab v acc < m :=
  squareTimes_lt hm _ (Nat.mod_lt _ hm)

theorem windowBit_acc_lt {m : Nat} (hm : 0 < m) (tab : Nat → Nat) {w : Window} (h : w.acc < m) (b : Bool) :
    (windowBit m tab w b).acc < m := by
  simp only [windowBit]
  split
  · split
    · exact applyWindow_lt hm tab _ _
    · exact h
  · exact Nat.mod_lt _ hm

theorem foldl_windowBit_acc_lt {m : Nat} (hm : 0 < m) (tab : Nat → Nat) (bs : List Bool) {w : Window}
    (h : w.acc < m) : (bs.foldl (windowBit m tab) w).acc < m := by
  induction bs generalizing w with
  | nil => exact h
  | cons b bs ih => exact ih (windowBit_acc_lt hm tab h b)

theorem windowDecode_lt {m : Nat} (hm : 1 < m) (tab : Nat → Nat) (p : Nat) : windowDecode m tab p < m := by
  have hpos := Nat.zero_lt_of_lt hm
  simp only [windowDecode]
  split
  · exact applyWindow_lt hpos tab _ _
  · exact foldl_windowBit_acc_lt hpos tab _ hm

/-- Settles O44: the table POWMOD builds holds the odd powers, so its decode is the power. -/
theorem powmodResult : Obligations.PowmodResult := by
  intro s k h n x p
  have hf := powmod_passes s k h
  obtain ⟨hready, -, -, -, -, -, -, -, -, -, hapart, -⟩ := h
  have hpower : windowDecode (s.modulus k) (oddPower (s.modulus k) x) p = x ^ p % s.modulus k :=
    windowDecodeComputesPower _ x p _ hready.one_lt_modulus fun _ _ => rfl
  obtain ⟨t, hexec, hended, hval, hout⟩ := State.residue_ends hready hf
    (windowDecode_lt hready.one_lt_modulus (oddPower (s.modulus k) x) p) hapart
  exact ⟨t, hexec, hended, hval.trans hpower, hout⟩

/-- Settles O45: the decode is a residue for every table, and the power over odd powers. -/
theorem powsldResult : Obligations.PowsldResult := by
  intro s k h n p
  have hf := powsld_passes s k h
  obtain ⟨hready, -, -, -, -, -, -, -, hapart, -⟩ := h
  obtain ⟨t, hexec, hended, hval, hout⟩ := State.residue_ends hready hf
    (windowDecode_lt hready.one_lt_modulus (s.tableEntry k (s.arg 0)) p) hapart
  refine ⟨t, hexec, hended, hval, fun x htab => ?_, hout⟩
  rw [hval]
  exact windowDecodeComputesPower _ x p _ hready.one_lt_modulus htab

/-! ## POW2 -/

/-- One exponent bit squares, and doubles when it is 1 (47_powmod.md R297). -/
theorem pow2Bit_power_mod (m h : Nat) (b : Bool) : pow2Bit m (2 ^ h % m) b = 2 ^ (2 * h + asBit b) % m := by
  rw [pow2Bit, square_power_mod]
  cases b
  · rfl
  · show 2 * (2 ^ (2 * h) % m) % m = 2 ^ (2 * h + 1) % m
    rw [Nat.mul_mod_mod, ← pow_succ']

theorem foldl_pow2Bit (m p k : Nat) : (bitsBelow p k).foldl (pow2Bit m) (2 ^ (p >>> k) % m) = 2 ^ p % m := by
  induction k with
  | zero => rfl
  | succ k ih =>
    rw [bitsBelow, List.foldl_cons, pow2Bit_power_mod, ← shiftRight_eq_double_add_asBit]
    exact ih

theorem pow2Mod_eq {m : Nat} (hm : 1 < m) (p : Nat) : pow2Mod m p = 2 ^ p % m := by
  have hfold := foldl_pow2Bit m p (bitlen p)
  rwa [shiftRight_bitlen, pow_zero, Nat.mod_eq_of_lt hm] at hfold

/-- Settles O46, bit by bit of the exponent. -/
theorem pow2Result : Obligations.Pow2Result := by
  intro s k h n p
  have hf := pow2_passes s k h
  obtain ⟨hready, -, -, -, -, -, hapart, -⟩ := h
  have hpower : pow2Mod (s.modulus k) p = 2 ^ p % s.modulus k := pow2Mod_eq hready.one_lt_modulus p
  have hlt : pow2Mod (s.modulus k) p < s.modulus k := hpower ▸ Nat.mod_lt _ hready.modulus_pos
  obtain ⟨t, hexec, hended, hval, hout⟩ := State.residue_ends hready hf hlt hapart
  exact ⟨t, hexec, hended, hval.trans hpower, hout⟩

end Sys2Proof.Machine
end

section
/-! # 60_exceptions.md R345: the checks, and the code each failure ends a command with -/

namespace Sys2Proof.Machine

/-- A command whose checks find an error ends with it and no other effect, CTXCLR included, whose checks find none. -/
theorem exec_failed {i : Instr} {s : State} {e : ErrorCode} (he : e ≠ .noError) (h : (formOf i s).firstError s = e) :
    ∃ t, exec i s = .next t ∧ t.Failed s e := by
  refine exec_fails ?_ he h
  rintro k rfl
  exact he (h.symm.trans (formCtxclr_passes s))

/-- Settles O20: the slot check comes first. -/
theorem emptySlotIsCtxInvalid : Obligations.EmptySlotIsCtxInvalid := by
  intro k s hv i hi
  have hslot : (formOf i s).slot = some k := by fin_cases hi <;> rfl
  refine exec_failed (by decide) (Form.firstError_slot fun hp => ?_)
  have hvalid := hp k hslot
  simp [hv] at hvalid

/-! ## Lengths -/

/-- Commands on a valid slot, or on none, one of whose lengths is not as it must be, end with BAD_LENGTH. -/
theorem State.badLengths_of {s : State} {sl : Option (Fin 4)} {is : List Instr}
    (hvalid : ∀ k, sl = some k → (s.slot k).valid = true)
    (h : ∀ i ∈ is, (formOf i s).slot = sl ∧ ∃ l ∈ (formOf i s).lengths, l.ok = false) :
    ∀ i ∈ is, ∃ t, exec i s = .next t ∧ t.Failed s .badLength := by
  intro i hi
  obtain ⟨hslot, l, hl, hbad⟩ := h i hi
  refine exec_failed (by decide) (Form.firstError_length (fun k hk => hvalid k (hslot ▸ hk)) fun hp => ?_)
  have hok := List.all_eq_true.1 ((Form.lengths_ok _).2 hp) l hl
  simp [hbad] at hok

theorem lenAny_zero {n : Nat} (h : n = 0) : (lenAny n).ok = false := by simp [LenOperand.ok, lenAny, h]

theorem lenUpTo_zero {n : Nat} (u : Nat) (h : n = 0) : (lenUpTo n u).ok = false := by simp [LenOperand.ok, lenUpTo, h]

theorem lenUpTo_above {n u : Nat} (h : u < n) : (lenUpTo n u).ok = false := by
  simp [LenOperand.ok, lenUpTo, Nat.not_le.2 h]

/-- Settles O21, clause by clause from the lengths the forms list. -/
theorem badLengthsEndCommands : Obligations.BadLengthsEndCommands := by
  intro s
  have unslotted {is : List Instr} := State.badLengths_of (s := s) (sl := none) (is := is) nofun
  refine ⟨fun h => unslotted ?_, fun h => unslotted ?_, fun h => unslotted ?_, fun h => unslotted ?_,
    fun h => unslotted ?_, fun k hv => ?_⟩
  · simp [formOf, formCompare, formInPlace, formMulWord, formMul, formSqr, formCopy, Form.plain, lenAny_zero h]
  · simp [formOf, formCompareX, formUnary, formTest, formInPlaceX, formModw, formDivmod, formZero, formSetmod, Form.plain,
      lenAny_zero h]
  · simp [formOf, formCompareX, formInPlaceX, formDivmod, formGcd, Form.plain, lenAny_zero h, lenUpTo_zero _ h]
  · simp [formOf, formInPlaceX, formDivmod, Form.plain, lenUpTo_above h]
  · simp [formOf, formMul, Form.plain, lenAny_zero h]
  have hslot : ∀ j, some k = some j → (s.slot j).valid = true := fun j hj => Option.some.inj hj ▸ hv
  have slotted {is : List Instr} := State.badLengths_of (is := is) hslot
  refine ⟨fun h => slotted ?_, fun h => slotted ?_, fun h => slotted ?_, fun h => slotted ?_, fun h => slotted ?_,
    fun h => slotted ?_⟩
  · simp [formOf, formReduce, formModPair, formSqrmod, formInvmod, formSlide, formPowmod, formPow2, Form.slotted,
      lenUpTo_zero _ h, lenAny_zero h]
  · simp [formOf, formReduce, Form.slotted, lenUpTo_above h]
  · simp [formOf, formModPair, formSqrmod, formInvmod, formSlide, formPowmod, Form.slotted, lenUpTo_above h]
  · simp [formOf, formModPair, formPowmod, Form.slotted, lenUpTo_zero _ h, lenAny_zero h]
  · simp [formOf, formModPair, Form.slotted, lenUpTo_above h]
  · simp [formOf, formPowsld, Form.slotted, lenAny_zero h]

/-! ## Values -/

/-- With the common checks passed, a command ends with what its value checks find (60_exceptions.md R345 step 8). -/
theorem exec_value_failed {i : Instr} {s : State} {e : ErrorCode} (hv : (formOf i s).value = e) (he : e ≠ .noError)
    (h : (formOf i s).CommonPass s) : ∃ t, exec i s = .next t ∧ t.Failed s e :=
  exec_failed he ((Form.firstError_value _ _ h).trans hv)

theorem oddModulus_even {m : Nat} (h : m % 2 = 0) (next : ErrorCode) : oddModulus m next = .evenModulus := if_pos h

theorem rangeCheck_below {m least : Nat} (h : m < least) : rangeCheck m least = .rangeEmpty := if_pos h

/-- Settles O22, from the value check of each form. -/
theorem valueChecksEndCommands : Obligations.ValueChecksEndCommands := by
  intro s k ends
  refine ⟨fun h => ?_, fun h => ?_, fun h => ?_, fun h => ⟨?_, ?_⟩, fun h => ?_, fun h => ?_, fun hodd h => ?_⟩
  · exact exec_value_failed (if_pos h) (by decide)
  · exact exec_value_failed (if_pos (Nat.div_eq_of_lt h)) (by decide)
  · exact exec_value_failed (if_neg fun hok => h ((modulusOk_iff _ _ _).1 hok)) (by decide)
  · exact exec_value_failed (oddModulus_even h _) (by decide)
  · exact exec_value_failed (oddModulus_even h _) (by decide)
  · exact exec_value_failed (rangeCheck_below h) (by decide)
  · exact exec_value_failed (rangeCheck_below h) (by decide)
  · have heven : ¬s.modulus k % 2 = 0 := by omega
    exact exec_value_failed ((if_neg heven).trans (rangeCheck_below h)) (by decide)

end Sys2Proof.Machine
end

section
/-! # 60_exceptions.md R345 steps 5 to 7, in the argument registers: range, overlap and protection of each command -/

namespace Sys2Proof.Machine

/-- What the buffer checks need to know of a form: its slot and length checks pass, it has the buffers `ins` and `outs`,
writes the latter, and `refused` says that it finds a forbidden overlap. -/
structure Form.Names (f : Form) (s : State) (ins outs : List (Nat × Nat)) (refused : Prop) : Prop where
  slot : f.SlotPasses s
  lengths : f.LengthsPass
  range : (∀ b ∈ ins ++ outs, s.Fits b.1 b.2) ↔ f.RangePasses s
  overlap : somePair f.conflict f.bufs = true ↔ refused
  writes : ∀ b ∈ outs, ∃ c ∈ f.bufs, c.role ≠ .input ∧ c.addr = b.1 ∧ c.len = b.2

/-- The buffer checks of the commands that share a form. -/
theorem Form.Names.bufferChecks {f : Form} {s : State} {is : List Instr} {ins outs : List (Nat × Nat)} {refused : Prop}
    (h : f.Names s ins outs refused) (hform : ∀ i ∈ is, (∀ k, i ≠ .ctxclr k) ∧ formOf i s = f) :
    s.BufferChecks f.own is ins outs refused := by
  refine State.bufferChecks_of fun i hi => ?_
  obtain ⟨hclr, rfl⟩ := hform i hi
  exact ⟨hclr, rfl, h.slot, h.lengths, h.range, h.overlap, h.writes⟩

/-- The buffer checks of commands of two forms with the same buffers. -/
theorem State.BufferChecks.append {s : State} {own : Option (Fin 4)} {is js : List Instr} {ins outs : List (Nat × Nat)}
    {refused : Prop} (hi : s.BufferChecks own is ins outs refused) (hj : s.BufferChecks own js ins outs refused) :
    s.BufferChecks own (is ++ js) ins outs refused :=
  fun i h => (List.mem_append.1 h).elim (hi i) (hj i)

/-! ## What the parts of a form say, for `simp` -/

@[simp] theorem Form.slotPasses_iff (f : Form) (s : State) :
    f.SlotPasses s ↔ ∀ k, f.slot = some k → (s.slot k).valid = true := Iff.rfl

@[simp] theorem Form.lengthsPass_iff (f : Form) :
    f.LengthsPass ↔ ∀ l ∈ f.lengths, 1 ≤ l.value ∧ ∀ u, l.bound = some u → l.value ≤ u := Iff.rfl

@[simp] theorem Form.rangePasses_iff (f : Form) (s : State) : f.RangePasses s ↔ ∀ b ∈ f.bufs, s.Fits b.addr b.len :=
  Iff.rfl

@[simp] theorem somePair_nil (p : Buf → Buf → Bool) : somePair p [] = false := rfl

@[simp] theorem somePair_cons (p : Buf → Buf → Bool) (b : Buf) (bs : List Buf) :
    somePair p (b :: bs) = (bs.any (p b) || somePair p bs) := rfl

@[simp] theorem Form.conflict_iff (f : Form) (b c : Buf) : f.conflict b c = true ↔
    regionsMeet b.addr b.len c.addr c.len = true ∧ ¬(b.role = .input ∧ c.role = .input) ∧ ¬f.permitted b c = true := by
  simp only [Form.conflict, Buf.meets, Bool.and_eq_true, Bool.not_eq_true', Bool.and_eq_false_iff,
    decide_eq_false_iff_not, not_and_or, Bool.not_eq_true, and_assoc]

@[simp] theorem Form.permitted_iff (f : Form) (b c : Buf) : f.permitted b c = true ↔
    ∃ t ∈ f.permits, (t.1 = b.name ∧ t.2.1 = c.name ∨ t.1 = c.name ∧ t.2.1 = b.name) ∧ t.2.2.admits b c = true := by
  simp only [Form.permitted, List.any_eq_true, Bool.and_eq_true, Bool.or_eq_true, decide_eq_true_eq, Prod.exists]

/-! ## The forms of the commands without a slot -/

section forms

variable {s : State}

theorem formCompare_names (h : 1 ≤ s.arg 2) :
    (formCompare s).Names s [(s.arg 0, s.arg 2), (s.arg 1, s.arg 2)] [] False := by
  constructor <;> simp [formCompare, Form.plain, lenAny, h]

theorem formCompareX_names (hx : 1 ≤ s.arg 1) (hy : 1 ≤ s.arg 3) :
    (formCompareX s).Names s [(s.arg 0, s.arg 1), (s.arg 2, s.arg 3)] [] False := by
  constructor <;> simp [formCompareX, Form.plain, lenAny, hx, hy]

theorem formInPlace_names (h : 1 ≤ s.arg 2) : (formInPlace s).Names s [(s.arg 1, s.arg 2)] [(s.arg 0, s.arg 2)]
    (s.arg 1 ≠ s.arg 0 ∧ Meet (s.arg 1, s.arg 2) (s.arg 0, s.arg 2)) := by
  simp only [meet_iff]
  constructor
  case range => simp [formInPlace, Form.plain, and_comm]
  case overlap => simp [formInPlace, Form.plain, Permit.admits, regionsMeet_comm, and_comm, eq_comm (a := s.arg 0)]
  all_goals simp [formInPlace, Form.plain, lenAny, h]

theorem formUnary_names (h : 1 ≤ s.arg 1) : (formUnary s).Names s [] [(s.arg 0, s.arg 1)] False := by
  constructor <;> simp [formUnary, Form.plain, lenAny, h]

theorem formZero_names (h : 1 ≤ s.arg 1) : (formZero s).Names s [] [(s.arg 0, s.arg 1)] False := by
  constructor <;> simp [formZero, Form.plain, lenAny, h]

theorem formTest_names (h : 1 ≤ s.arg 1) : (formTest s).Names s [(s.arg 0, s.arg 1)] [] False := by
  constructor <;> simp [formTest, Form.plain, lenAny, h]

theorem formInPlaceX_names (hy : 1 ≤ s.arg 3) (hle : s.arg 3 ≤ s.arg 1) :
    (formInPlaceX s).Names s [(s.arg 2, s.arg 3)] [(s.arg 0, s.arg 1)]
      (¬(s.arg 2 = s.arg 0 ∧ s.arg 3 = s.arg 1) ∧ Meet (s.arg 2, s.arg 3) (s.arg 0, s.arg 1)) := by
  have hx := hy.trans hle
  simp only [meet_iff]
  constructor
  case range => simp [formInPlaceX, Form.plain, and_comm]
  case overlap =>
    simp [formInPlaceX, Form.plain, Permit.admits, regionsMeet_comm, and_comm, eq_comm (a := s.arg 0),
      eq_comm (a := s.arg 1)]
  all_goals simp [formInPlaceX, Form.plain, lenAny, lenUpTo, hx, hy, hle]

theorem formMulWord_names {role : Role} (hrole : role ≠ .input) (h : 1 ≤ s.arg 2) :
    (formMulWord s role).Names s [(s.arg 1, s.arg 2), (s.arg 3, 1)] [(s.arg 0, s.arg 2)]
      (s.arg 1 ≠ s.arg 0 ∧ Meet (s.arg 1, s.arg 2) (s.arg 0, s.arg 2) ∨ Meet (s.arg 3, 1) (s.arg 0, s.arg 2)) := by
  simp only [meet_iff]
  constructor
  case range => simp [formMulWord, Form.plain, and_comm, and_left_comm]
  case overlap =>
    simp [formMulWord, Form.plain, Permit.admits, hrole, regionsMeet_comm, and_comm, eq_comm (a := s.arg 0)]
  all_goals simp [formMulWord, Form.plain, lenAny, h, hrole]

theorem formMul_names (hx : 1 ≤ s.arg 2) (hy : 1 ≤ s.arg 4) :
    let r := (s.arg 0, s.arg 2 + s.arg 4)
    (formMul s).Names s [(s.arg 1, s.arg 2), (s.arg 3, s.arg 4)] [r]
      (Meet r (s.arg 1, s.arg 2) ∨ Meet r (s.arg 3, s.arg 4)) := by
  simp only [meet_iff]
  constructor
  case range => simp [formMul, Form.plain, and_comm, and_left_comm]
  all_goals simp [formMul, Form.plain, lenAny, hx, hy]

theorem formSqr_names (h : 1 ≤ s.arg 2) : (formSqr s).Names s [(s.arg 1, s.arg 2)] [(s.arg 0, 2 * s.arg 2)]
    (Meet (s.arg 0, 2 * s.arg 2) (s.arg 1, s.arg 2)) := by
  simp only [meet_iff]
  constructor
  case range => simp [formSqr, Form.plain, and_comm]
  all_goals simp [formSqr, Form.plain, lenAny, h]

theorem formModw_names (h : 1 ≤ s.arg 1) : (formModw s).Names s [(s.arg 0, s.arg 1), (s.arg 2, 1)] [] False := by
  constructor <;> simp [formModw, Form.plain, lenAny, h]

theorem formDivmod_names (hy : 1 ≤ s.arg 3) (hle : s.arg 3 ≤ s.arg 1) :
    let x := (s.arg 0, s.arg 1)
    let y := (s.arg 2, s.arg 3)
    let q := (s.arg 4, s.arg 1 - s.arg 3 + 1)
    let r := (s.arg 5, s.arg 3)
    let wk := (s.arg 6, s.arg 1 + s.arg 3 + 2)
    (formDivmod s).Names s [x, y] [q, r, wk] (Meet q x ∨ Meet q y ∨ Meet r x ∨ Meet r y ∨ Meet wk x ∨ Meet wk y ∨
      Meet q r ∨ Meet q wk ∨ Meet r wk) := by
  have hx := hy.trans hle
  simp only [meet_iff]
  constructor
  case overlap =>
    simp [formDivmod, Form.plain, regionsMeet_comm]
    grind only
  all_goals simp [formDivmod, Form.plain, lenAny, lenUpTo, hx, hy, hle]

theorem formGcd_names (h : 1 ≤ s.arg 3) :
    let r := (s.arg 0, s.arg 3)
    let wk := (s.arg 4, 2 * s.arg 3)
    (formGcd s).Names s [(s.arg 1, s.arg 3), (s.arg 2, s.arg 3)] [r, wk]
      (Meet wk r ∨ Meet wk (s.arg 1, s.arg 3) ∨ Meet wk (s.arg 2, s.arg 3)) := by
  simp only [meet_iff]
  constructor
  case range => simp [formGcd, Form.plain, and_left_comm]
  case overlap => simp [formGcd, Form.plain, Permit.admits, regionsMeet_comm]
  all_goals simp [formGcd, Form.plain, lenAny, h]

theorem formCopy_names (h : 1 ≤ s.arg 2) : (formCopy s).Names s [(s.arg 1, s.arg 2)] [(s.arg 0, s.arg 2)]
    (s.arg 1 ≠ s.arg 0 ∧ Meet (s.arg 1, s.arg 2) (s.arg 0, s.arg 2)) := by
  simp only [meet_iff]
  constructor
  case range => simp [formCopy, Form.plain, and_comm]
  case overlap => simp [formCopy, Form.plain, Permit.admits, regionsMeet_comm, and_comm, eq_comm (a := s.arg 0)]
  all_goals simp [formCopy, Form.plain, lenAny, h]

theorem formSetmod_names (k : Fin 4) (h : 1 ≤ s.arg 1) :
    let m := (s.arg 0, s.arg 1)
    let base := (s.arg 2, 2 * s.arg 1 + 1)
    let wk := (s.arg 3, 5 * s.arg 1 + 4)
    (formSetmod s k).Names s [m] [base, wk] (s.arg 0 ≠ s.arg 2 ∧ Meet m base ∨ Meet wk m ∨ Meet wk base) := by
  simp only [meet_iff]
  constructor
  case overlap =>
    simp [formSetmod, Permit.admits, regionsMeet_comm]
    grind only
  all_goals simp [formSetmod, lenAny, h]

/-! ## The forms of the slot commands -/

section slotted

variable {k : Fin 4} (hv : (s.slot k).valid = true)
include hv

theorem formReduce_names (h : 1 ≤ s.arg 1) (hle : s.arg 1 ≤ 2 * s.slotN k) :
    let wk := (s.arg 3, 2 * s.slotN k + 2)
    (formReduce s k).Names s [(s.arg 0, s.arg 1)] [(s.arg 2, s.slotN k), wk]
      (Meet wk (s.arg 0, s.arg 1) ∨ Meet wk (s.arg 2, s.slotN k)) := by
  simp only [meet_iff]
  constructor
  case overlap => simp [formReduce, Form.slotted, Permit.admits, regionsMeet_comm]
  all_goals simp [formReduce, Form.slotted, lenUpTo, hv, h, hle]

theorem formModPair_names (hx : 1 ≤ s.arg 1) (hxle : s.arg 1 ≤ s.slotN k) (hy : 1 ≤ s.arg 3)
    (hyle : s.arg 3 ≤ s.slotN k) :
    let wk := (s.arg 5, 4 * s.slotN k + 2)
    (formModPair s k).Names s [(s.arg 0, s.arg 1), (s.arg 2, s.arg 3)] [(s.arg 4, s.slotN k), wk]
      (Meet wk (s.arg 0, s.arg 1) ∨ Meet wk (s.arg 2, s.arg 3) ∨ Meet wk (s.arg 4, s.slotN k)) := by
  simp only [meet_iff]
  constructor
  case overlap => simp [formModPair, Form.slotted, Permit.admits, regionsMeet_comm]
  all_goals simp [formModPair, Form.slotted, lenUpTo, hv, hx, hxle, hy, hyle]

theorem formSqrmod_names (h : 1 ≤ s.arg 1) (hle : s.arg 1 ≤ s.slotN k) :
    let wk := (s.arg 3, 4 * s.slotN k + 2)
    (formSqrmod s k).Names s [(s.arg 0, s.arg 1)] [(s.arg 2, s.slotN k), wk]
      (Meet wk (s.arg 0, s.arg 1) ∨ Meet wk (s.arg 2, s.slotN k)) := by
  simp only [meet_iff]
  constructor
  case overlap => simp [formSqrmod, Form.slotted, Permit.admits, regionsMeet_comm]
  all_goals simp [formSqrmod, Form.slotted, lenUpTo, hv, h, hle]

theorem formInvmod_names (h : 1 ≤ s.arg 1) (hle : s.arg 1 ≤ s.slotN k) :
    let wk := (s.arg 3, 6 * s.slotN k + 6)
    (formInvmod s k).Names s [(s.arg 0, s.arg 1)] [(s.arg 2, s.slotN k), wk]
      (Meet wk (s.arg 0, s.arg 1) ∨ Meet wk (s.arg 2, s.slotN k)) := by
  simp only [meet_iff]
  constructor
  case overlap => simp [formInvmod, Form.slotted, Permit.admits, regionsMeet_comm]
  all_goals simp [formInvmod, Form.slotted, lenUpTo, hv, h, hle]

theorem formSlide_names (h : 1 ≤ s.arg 1) (hle : s.arg 1 ≤ s.slotN k) :
    let t := (s.arg 2, 8 * s.slotN k)
    let wk := (s.arg 3, 4 * s.slotN k + 2)
    (formSlide s k).Names s [(s.arg 0, s.arg 1)] [t, wk]
      (Meet t (s.arg 0, s.arg 1) ∨ Meet t wk ∨ Meet wk (s.arg 0, s.arg 1)) := by
  simp only [meet_iff]
  constructor
  case overlap =>
    simp [formSlide, Form.slotted, regionsMeet_comm]
    grind only
  all_goals simp [formSlide, Form.slotted, lenUpTo, hv, h, hle]

theorem formPowmod_names (hx : 1 ≤ s.arg 1) (hxle : s.arg 1 ≤ s.slotN k) (hp : 1 ≤ s.arg 3) :
    let wk := (s.arg 5, 12 * s.slotN k + 2)
    (formPowmod s k).Names s [(s.arg 0, s.arg 1), (s.arg 2, s.arg 3)] [(s.arg 4, s.slotN k), wk]
      (Meet wk (s.arg 0, s.arg 1) ∨ Meet wk (s.arg 2, s.arg 3) ∨ Meet wk (s.arg 4, s.slotN k)) := by
  simp only [meet_iff]
  constructor
  case overlap => simp [formPowmod, Form.slotted, Permit.admits, regionsMeet_comm]
  all_goals simp [formPowmod, Form.slotted, lenUpTo, lenAny, hv, hx, hxle, hp]

theorem formPowsld_names (hp : 1 ≤ s.arg 2) :
    let t := (s.arg 0, 8 * s.slotN k)
    let wk := (s.arg 4, 4 * s.slotN k + 2)
    (formPowsld s k).Names s [t, (s.arg 1, s.arg 2)] [(s.arg 3, s.slotN k), wk]
      (Meet wk t ∨ Meet wk (s.arg 1, s.arg 2) ∨ Meet wk (s.arg 3, s.slotN k)) := by
  simp only [meet_iff]
  constructor
  case overlap => simp [formPowsld, Form.slotted, Permit.admits, regionsMeet_comm]
  all_goals simp [formPowsld, Form.slotted, lenAny, hv, hp]

theorem formPow2_names (hp : 1 ≤ s.arg 1) :
    let wk := (s.arg 3, 4 * s.slotN k + 2)
    (formPow2 s k).Names s [(s.arg 0, s.arg 1)] [(s.arg 2, s.slotN k), wk]
      (Meet wk (s.arg 0, s.arg 1) ∨ Meet wk (s.arg 2, s.slotN k)) := by
  simp only [meet_iff]
  constructor
  case overlap => simp [formPow2, Form.slotted, Permit.admits, regionsMeet_comm]
  all_goals simp [formPow2, Form.slotted, lenAny, hv, hp]

theorem formRnd_names (least : Nat) : (formRnd s k least).Names s [] [(s.arg 0, s.slotN k)] False := by
  constructor <;> simp [formRnd, Form.slotted, hv]

theorem formRndinv_names :
    let r := (s.arg 0, s.slotN k)
    let ri := (s.arg 1, s.slotN k)
    let wk := (s.arg 2, 6 * s.slotN k + 6)
    (formRndinv s k).Names s [] [r, ri, wk] (Meet r ri ∨ Meet r wk ∨ Meet ri wk) := by
  simp only [meet_iff]
  constructor
  case overlap => simp [formRndinv, Form.slotted, or_assoc]
  all_goals simp [formRndinv, Form.slotted, hv]

end slotted

end forms

/-! ## Every command -/

/-- 60_exceptions.md R345: the first failing check decides the code. -/
theorem exec_first_failure (i : Instr) (s : State) :
    let f := formOf i s
    let ends (e : ErrorCode) : Prop := ∃ t, exec i s = .next t ∧ t.Failed s e
    (¬f.SlotPasses s → ends .ctxInvalid) ∧ (f.SlotPasses s → ¬f.LengthsPass → ends .badLength) ∧
      (f.SlotPasses s → f.LengthsPass → ¬f.RangePasses s → ends .outOfRange) ∧
        (f.SlotPasses s → f.LengthsPass → f.RangePasses s → ¬f.OverlapPasses → ends .overlap) ∧
          (f.SlotPasses s → f.LengthsPass → f.RangePasses s → f.OverlapPasses → ¬f.ProtectionPasses s →
            ends .ctxClobber) ∧ (f.CommonPass s → f.value ≠ .noError → ends f.value) :=
  ⟨fun h => exec_failed (by decide) (Form.firstError_slot h),
    fun hs h => exec_failed (by decide) (Form.firstError_length hs h),
    fun hs hl h => exec_failed (by decide) (Form.firstError_range hs hl h),
    fun hs hl hr h => exec_failed (by decide) (Form.firstError_overlap hs hl hr h),
    fun hs hl hr ho h => exec_failed (by decide) (Form.firstError_protection hs hl hr ho h),
    fun h he => exec_value_failed rfl he h⟩

/-- Settles O19: the order of the checks, and then form by form what each finds in the argument registers. -/
theorem checksReportFirstFailure : Obligations.ChecksReportFirstFailure := by
  refine ⟨exec_first_failure, fun s => ?_, fun s k hv => ?_⟩
  · refine ⟨fun h => (formCompare_names h).bufferChecks ?_, fun hx hy => (formCompareX_names hx hy).bufferChecks ?_,
      fun h => (formInPlace_names h).bufferChecks ?_, fun h => ?_, fun h => (formTest_names h).bufferChecks ?_,
      fun hy hle => (formInPlaceX_names hy hle).bufferChecks ?_, fun h => ?_,
      fun hx hy => (formMul_names hx hy).bufferChecks ?_, fun h => (formSqr_names h).bufferChecks ?_,
      fun h => (formModw_names h).bufferChecks ?_, fun hy hle => (formDivmod_names hy hle).bufferChecks ?_,
      fun h => (formGcd_names h).bufferChecks ?_, fun h => (formCopy_names h).bufferChecks ?_,
      fun k h => (formSetmod_names k h).bufferChecks ?_⟩
    case refine_4 =>
      refine State.BufferChecks.append (is := [.not, .setmsb, .setlsb, .clrmsb, .clrlsb, .lshift, .rshift, .dbl, .halve,
        .neg]) (js := [.zero]) ((formUnary_names h).bufferChecks ?_) ((formZero_names h).bufferChecks ?_)
      all_goals intro i hi; fin_cases hi <;> exact ⟨nofun, rfl⟩
    case refine_7 =>
      refine State.BufferChecks.append (is := [.setmul]) (js := [.addmul])
        ((formMulWord_names (role := .output) (by decide) h).bufferChecks ?_)
        ((formMulWord_names (role := .inout) (by decide) h).bufferChecks ?_)
      all_goals intro i hi; fin_cases hi; exact ⟨nofun, rfl⟩
    all_goals intro i hi; fin_cases hi <;> exact ⟨nofun, rfl⟩
  · refine ⟨fun h hle => (formReduce_names hv h hle).bufferChecks ?_,
      fun hx hxle hy hyle => (formModPair_names hv hx hxle hy hyle).bufferChecks ?_,
      fun h hle => ⟨(formSqrmod_names hv h hle).bufferChecks ?_, (formInvmod_names hv h hle).bufferChecks ?_,
        (formSlide_names hv h hle).bufferChecks ?_⟩, fun hx hxle hp => (formPowmod_names hv hx hxle hp).bufferChecks ?_,
      fun hp => (formPowsld_names hv hp).bufferChecks ?_, fun hp => (formPow2_names hv hp).bufferChecks ?_, ?_,
      (formRndinv_names hv).bufferChecks ?_⟩
    case refine_9 =>
      refine State.BufferChecks.append (is := [.rnd k]) (js := [.rndodd k]) ((formRnd_names hv 4).bufferChecks ?_)
        ((formRnd_names hv 5).bufferChecks ?_)
      all_goals intro i hi; fin_cases hi; exact ⟨nofun, rfl⟩
    all_goals intro i hi; fin_cases hi <;> exact ⟨nofun, rfl⟩

end Sys2Proof.Machine
end

section
/-! # 48_random.md R321: the candidate of an attempt -/

namespace Sys2Proof.Machine

/-- One more digit multiplies the weight of every earlier one by `B` (00_scope.md R12). -/
theorem sum_digits_succ (B n : Nat) (f : Nat → Nat) :
    ∑ i ∈ Finset.range (n + 1), f i * B ^ (n + 1 - 1 - i) =
      (∑ i ∈ Finset.range n, f i * B ^ (n - 1 - i)) * B + f n := by
  have hweight : ∀ i ∈ Finset.range n, f i * B ^ (n + 1 - 1 - i) = f i * B ^ (n - 1 - i) * B := fun i hi => by
    have hin := Finset.mem_range.1 hi
    rw [mul_assoc, ← pow_succ, show n - 1 - i + 1 = n + 1 - 1 - i by omega]
  rw [Finset.sum_range_succ, Finset.sum_congr rfl hweight, Finset.sum_mul]
  simp

/-- A draw behind the first is one more digit. -/
theorem candidate_concat (B mask : Nat) {l : List Word} (h : l ≠ []) (d : Word) :
    candidate B mask (l ++ [d]) = candidate B mask l * B + d.toNat % B := by
  cases l with
  | nil => exact absurd rfl h
  | cons w ws => simp [candidate, List.foldl_append]

/-- The candidate of the first `n` draws, as a sum over them. -/
theorem candidate_take (B mask : Nat) (l : List Word) {n : Nat} (hn : 1 ≤ n) (hl : n ≤ l.length) :
    candidate B mask (l.take n) = ∑ i ∈ Finset.range n,
      (if i = 0 then (l.getD i 0).toNat % B &&& mask else (l.getD i 0).toNat % B) * B ^ (n - 1 - i) := by
  induction n, hn using Nat.le_induction with
  | base =>
    obtain ⟨w, ws, rfl⟩ := List.exists_cons_of_length_pos hl
    simp [candidate]
  | succ n hn ih =>
    have hne : l.take n ≠ [] := by
      rw [ne_eq, List.take_eq_nil_iff, not_or]
      exact ⟨by omega, List.ne_nil_of_length_pos (by omega)⟩
    rw [List.take_succ_eq_append_getElem (by omega), candidate_concat B mask hne, ih (by omega), sum_digits_succ,
      if_neg (by omega), List.getD_eq_getElem l 0 (by omega)]

/-- The draws behind the first fill the low digits only. -/
theorem foldl_digits_lt {B M : Nat} (hB : 0 < B) (ws : List Word) {c : Nat} (hc : c < M) :
    ws.foldl (fun c d => c * B + d.toNat % B) c < M * B ^ ws.length := by
  induction ws generalizing c M with
  | nil => simpa using hc
  | cons d ws ih =>
    have hdigit := Nat.mod_lt d.toNat hB
    have hstep : c * B + d.toNat % B < M * B := by
      calc c * B + d.toNat % B < (c + 1) * B := by rw [Nat.succ_mul]; omega
        _ ≤ M * B := Nat.mul_le_mul_right B hc
    have hrest := ih hstep
    rwa [mul_assoc, ← pow_succ'] at hrest

theorem candidate_lt {B mask : Nat} (hB : 0 < B) {l : List Word} (hl : 1 ≤ l.length) :
    candidate B mask l < (mask + 1) * B ^ (l.length - 1) := by
  obtain ⟨w, ws, rfl⟩ := List.exists_cons_of_length_pos hl
  exact foldl_digits_lt hB ws (Nat.lt_succ_of_le Nat.and_le_right)

theorem topMask_eq (W v : Nat) : topMask W v = (2 ^ W - 1) / 2 ^ (W - v.size) := by
  rw [topMask, leadingZeros, bitlen_eq_size, Nat.shiftRight_eq_div_pow]

/-- The mask has the bits of the top word (48_random.md R321). -/
theorem topMask_lt {W v : Nat} (h : v < 2 ^ W) : topMask W v + 1 ≤ 2 ^ v.size := by
  rw [topMask_eq, Nat.succ_le_iff, Nat.div_lt_iff_lt_mul (Nat.two_pow_pos _), ← pow_add,
    Nat.add_sub_cancel' (Nat.size_le.2 h)]
  exact Nat.sub_one_lt (Nat.two_pow_pos W).ne'

/-- A sound modulus has at least one word. -/
theorem State.SlotReady.one_le_slotN {s : State} {k : Fin 4} (h : s.SlotReady k) : 1 ≤ s.slotN k := by
  have hlt := h.one_lt_modulus.trans h.modulus_lt
  by_contra hn
  rw [show s.slotN k = 0 by omega, pow_zero] at hlt
  omega

/-- A sound modulus has the bits of its top word above those of its other words. -/
theorem State.SlotReady.size_le {s : State} {k : Fin 4} (h : s.SlotReady k) :
    (s.word (s.slotBase k)).size + (s.slotN k - 1) * s.wordBits ≤ (s.modulus k).size := by
  have hn := h.one_le_slotN
  have htop : s.modulus k / s.radix ^ (s.slotN k - 1) = s.word (s.slotBase k) := s.val_div_first hn
  have hge : s.radix ^ (s.slotN k - 1) ≤ s.modulus k := by
    obtain ⟨hvalid, hsound⟩ := h
    obtain ⟨-, hgt, -⟩ := hsound hvalid
    exact hgt.le
  have hpos : 0 < s.word (s.slotBase k) := htop ▸ Nat.div_pos hge (Nat.pow_pos s.radix_pos)
  have hsize : (s.word (s.slotBase k)).size - 1 < (s.word (s.slotBase k)).size :=
    Nat.sub_one_lt (Nat.size_pos.2 hpos).ne'
  have hle : 2 ^ ((s.word (s.slotBase k)).size - 1 + (s.slotN k - 1) * s.wordBits) ≤ s.modulus k := by
    rw [pow_add, ← s.radix_pow, ← Nat.le_div_iff_mul_le (Nat.pow_pos s.radix_pos), htop]
    exact Nat.lt_size.1 hsize
  have := Nat.lt_size.2 hle
  omega

/-- Settles O49: the draws are the candidate's digits, and its top digit is masked to the bits of the modulus's. -/
theorem candidateIsMaskedDraws : Obligations.CandidateIsMaskedDraws := by
  intro s k h hdraws n draw mask
  have hn : 1 ≤ n := h.one_le_slotN
  have hmask : topMask s.wordBits (s.word (s.slotBase k)) = mask := topMask_eq _ _
  refine ⟨?_, ?_⟩
  · rw [State.nextCandidate, hmask]
    exact candidate_take s.radix mask s.rng hn hdraws
  · have hlen : (s.rng.take n).length = n := List.length_take_of_le hdraws
    calc s.nextCandidate k < (topMask s.wordBits (s.word (s.slotBase k)) + 1) * s.radix ^ (n - 1) := by
          have hlt := candidate_lt (mask := topMask s.wordBits (s.word (s.slotBase k))) s.radix_pos
            (hn.trans_eq hlen.symm)
          rwa [hlen] at hlt
      _ ≤ 2 ^ (s.word (s.slotBase k)).size * s.radix ^ (n - 1) := Nat.mul_le_mul_right _ (topMask_lt (s.word_lt _))
      _ = 2 ^ ((s.word (s.slotBase k)).size + (n - 1) * s.wordBits) := by rw [s.radix_pow, pow_add]
      _ ≤ 2 ^ (s.modulus k).size := Nat.pow_le_pow_right two_pos h.size_le

end Sys2Proof.Machine
end

section
/-! # 48_random.md R322 to R325: one step of a sampling command -/

namespace Sys2Proof.Machine

/-- With its checks passed, a sampling command waits for `N` draws, and then accepts or rejects (48_random.md R322). -/
theorem State.sample_wait {s : State} {f : Form} {k : Fin 4} {acc : Bool} {eff : State → State}
    (hf : f.firstError s = .noError) (hl : s.rng.length < s.slotN k) : s.sample f k acc eff = .next s := by
  rw [State.sample, if_neg (not_not.2 hf), if_pos hl]

theorem State.sample_accept {s : State} {f : Form} {k : Fin 4} {acc : Bool} {eff : State → State}
    (hf : f.firstError s = .noError) (hl : s.slotN k ≤ s.rng.length) (hacc : acc = true) :
    s.sample f k acc eff = .next ((eff (s.takeDraws k)).complete .noError) := by
  rw [State.sample, if_neg (not_not.2 hf), if_neg (Nat.not_lt.2 hl), if_pos hacc]

theorem State.sample_reject {s : State} {f : Form} {k : Fin 4} {acc : Bool} {eff : State → State}
    (hf : f.firstError s = .noError) (hl : s.slotN k ≤ s.rng.length) (hacc : ¬acc = true) :
    s.sample f k acc eff = .next (s.takeDraws k).retry := by
  rw [State.sample, if_neg (not_not.2 hf), if_neg (Nat.not_lt.2 hl), if_neg hacc]

theorem inRange_iff (m c : Nat) : inRange m c = true ↔ 2 ≤ c ∧ c + 2 ≤ m := by
  simp [inRange]

/-- What RND and RNDODD store when they accept `c` (48_random.md R323, R324). -/
def State.storeCandidate (k : Fin 4) (c : Nat) (t : State) : State := (t.store (t.arg 0) (t.slotN k) c).setRes 0

/-- One step of RND or RNDODD with candidate `c`, its checks passed. -/
theorem State.sample_attempt {s : State} {f : Form} {k : Fin 4} {c : Nat} (hready : s.SlotReady k)
    (hf : f.firstError s = .noError) :
    let attempt := s.sample f k (inRange (s.modulus k) c) (State.storeCandidate k c)
    (s.rng.length < s.slotN k → attempt = .next s) ∧
      (s.slotN k ≤ s.rng.length → 2 ≤ c ∧ c + 2 ≤ s.modulus k →
        ∃ t, attempt = .next t ∧ t.Ended { s with rng := s.rng.drop (s.slotN k) } 0 ∧
          t.val (s.arg 0) (s.slotN k) = c ∧ t.SameOutside s (s.arg 0) (s.slotN k)) ∧
        (s.slotN k ≤ s.rng.length → ¬(2 ≤ c ∧ c + 2 ≤ s.modulus k) → attempt = .next (s.takeDraws k).retry) := by
  refine ⟨State.sample_wait hf, fun hl hc => ?_, fun hl hc => ?_⟩
  · have hlt : c < s.radix ^ s.slotN k := by have := hready.modulus_lt; omega
    refine ⟨_, State.sample_accept hf hl ((inRange_iff _ _).2 hc), ?_, ?_, fun x hx => ?_⟩
    · exact State.setRes_ended (s := s.takeDraws k) (u := (s.takeDraws k).store (s.arg 0) (s.slotN k) c) rfl
        s.radix_pos
    · rw [State.complete_val, State.storeCandidate, State.setRes_val, State.takeDraws_arg, State.takeDraws_slotN,
        State.val_store, State.takeDraws_radix, Nat.mod_eq_of_lt hlt]
    · rw [State.complete_word, State.storeCandidate, State.setRes_word, State.takeDraws_arg, State.takeDraws_slotN,
        State.word_store_outside _ _ _ _ _ hx, State.takeDraws_word]
  · exact State.sample_reject hf hl fun hacc => hc ((inRange_iff _ _).1 hacc)

/-- Settles O50, from the one attempt the two commands share. -/
theorem rndRndoddAttempts : Obligations.RndRndoddAttempts := by
  intro s k
  refine ⟨fun h => ?_, fun h => ?_⟩
  · have hf := rnd_passes s k 4 h
    obtain ⟨hready, -⟩ := h
    exact State.sample_attempt hready hf
  · have hf := rnd_passes s k 5 h
    obtain ⟨hready, -⟩ := h
    exact State.sample_attempt hready hf

/-- What RNDINV stores when it accepts `c` with inverse `v` (48_random.md R325). -/
def State.storeCandidateInverse (k : Fin 4) (c v : Nat) (t : State) : State :=
  (((t.store (t.arg 0) (t.slotN k) c).store (t.arg 1) (t.slotN k) v).havoc (t.arg 2) (6 * t.slotN k + 6)).setRes 0

theorem State.storeCandidateInverse_takeDraws (s : State) (k : Fin 4) (c v : Nat) :
    (s.takeDraws k).storeCandidateInverse k c v = ((((s.takeDraws k).store (s.arg 0) (s.slotN k) c).store (s.arg 1)
      (s.slotN k) v).havoc (s.arg 2) (6 * s.slotN k + 6)).setRes 0 := rfl

theorem execRndinv_effect (k : Fin 4) (s : State) : exec (.rndinv k) s = s.sample (formRndinv s k) k
    (inRange (s.modulus k) (s.nextCandidate k) && decide (Nat.gcd (s.nextCandidate k) (s.modulus k) = 1))
      (State.storeCandidateInverse k (s.nextCandidate k) (invMod (s.modulus k) (s.nextCandidate k))) := rfl

/-- Settles O51: the candidate and its inverse are below the modulus, in buffers apart from each other and from the
workspace. -/
theorem rndinvAttempts : Obligations.RndinvAttempts := by
  intro s k h
  have hf := rndinv_passes s k h
  obtain ⟨hready, -, -, -, hRI, hRW, hIW, -⟩ := h
  have hmlt := hready.modulus_lt
  dsimp only
  rw [execRndinv_effect]
  generalize s.nextCandidate k = c
  have haccepted : (inRange (s.modulus k) c && decide (Nat.gcd c (s.modulus k) = 1)) = true ↔
      2 ≤ c ∧ c + 2 ≤ s.modulus k ∧ Nat.gcd c (s.modulus k) = 1 := by
    rw [Bool.and_eq_true, inRange_iff, decide_eq_true_eq, and_assoc]
  refine ⟨State.sample_wait hf, fun hl hacc => ?_, fun hl hacc => State.sample_reject hf hl (hacc <| haccepted.1 ·)⟩
  have ⟨_, hhi, hg⟩ := hacc
  obtain ⟨hinvlt, hinv⟩ := invMod_spec (s.modulus k) c hready.one_lt_modulus hg
  obtain ⟨hvalR, hvalI, hout⟩ := (s.takeDraws k).two_stores_havoc hRI hRW hIW
    (show c < s.radix ^ s.slotN k by omega) (hinvlt.trans hmlt)
  refine ⟨_, State.sample_accept hf hl (haccepted.2 hacc), ?_⟩
  rw [State.storeCandidateInverse_takeDraws]
  refine ⟨State.setRes_ended (s := s.takeDraws k) rfl s.radix_pos, ?_, ?_, ?_, fun a hR hI hW => ?_⟩
  · rw [State.complete_val, State.setRes_val, hvalR]
  · rwa [State.complete_val, State.setRes_val, hvalI]
  · rw [State.complete_val, State.setRes_val, hvalI, hinv]
  · rw [State.complete_word, State.setRes_word, hout a hR hI hW, State.takeDraws_word]

end Sys2Proof.Machine
end
